-- ==== Sys2Proof/Word.lean ====
section
/-!
DEFINITION. The words of the machine's vocabulary: bytes, 32-bit words, the 16-byte Block, four-entry
register files, and the closed sets of names that the operands of a command are drawn from.

A Block is a vector of 16 bytes that nothing in the spec ever reads as an integer (R9, R71), so it is kept
as bytes. Its bytes are grouped the way R72 groups them: `Column k` is bytes 4k, 4k+1, 4k+2, 4k+3 in that
order, which is at once a column of the state matrix (R187) and a word of the key expansion (R270).
-/

namespace Sys2Proof

/-- A byte; also an element of GF(2^8), bit i the coefficient of x^i (R9, R180). -/
abbrev Byte := BitVec 8

/-- A command word or a control register: 32 bits, bit 0 least significant (R9). -/
abbrev Word := BitVec 32

/-- Four consecutive bytes: rows 0 to 3 of one column of the state (R187), or one key-expansion word (R270). -/
structure Column where
  r0 : Byte
  r1 : Byte
  r2 : Byte
  r3 : Byte
deriving DecidableEq, Repr, Inhabited

/-- A Block, "a fixed 16-byte array": byte 4k + r is row r of column k (R7, R9, R187). -/
structure Block where
  c0 : Column
  c1 : Column
  c2 : Column
  c3 : Column
deriving DecidableEq, Repr, Inhabited

/-- A file of four like things: ST, KR, their written tags, and the slots KS (R30, R31, R32, R34). -/
structure Quad (α : Type) where
  e0 : α
  e1 : α
  e2 : α
  e3 : α
deriving DecidableEq, Repr, Inhabited

/-- An index into a file of four: a lane of ST, a register of KR or a slot of KS (R103). -/
abbrev Lane := Fin 4

/-- The lane counts of a command: 1, 2 or 4 (R7, R103). -/
inductive LaneCount where
  | one
  | two
  | four
deriving DecidableEq, Repr, Inhabited

/-- Where the lanes of a command take their key from (R154): with B = 1 all from the one register or slot
named by K, with B = 0 lane i from register or slot i (and K must be 0, R107). -/
inductive KeySel where
  | broadcast (k : Lane)
  | perLane
deriving DecidableEq, Repr, Inhabited

/-- The expected cipher variant V of ENCRYPT and DECRYPT (R103). -/
inductive Variant where
  | any
  | aes128
  | aes192
  | aes256
deriving DecidableEq, Repr, Inhabited

/-- The destination file D of RKREAD: 0 is KR, 1 is ST (R102). -/
inductive RegFile where
  | kr
  | st
deriving DecidableEq, Repr, Inhabited

/-- The 39 mnemonics of R104, in the order of the opcode map. -/
inductive Mnemonic where
  | subbytes | invsubbytes | shiftrows | invshiftrows | mixcolumns | invmixcolumns | addroundkey
  | round | finalround | invround | invfinalround
  | roundkf | finalroundkf | invroundkf | invfinalroundkf
  | roundnk | finalroundnk | invroundnk | invfinalroundnk
  | rounds | roundsfin | invrounds | invroundsfin
  | roundskf | roundskffin | invroundskf | invroundskffin
  | roundsnk | roundsnkfin | invroundsnk | invroundsnkfin
  | encrypt | decrypt
  | keyexp | keyinv | rkread
  | capinit | qhwavail | qlanes
deriving DecidableEq, Repr, Inhabited

end Sys2Proof
end

