-- ==== Sys2Proof/Config.lean ====
section
/-!
DEFINITION. The configuration: what is fixed for one instance of the hardware and left open by the spec
(R8, R45). A machine carries its configuration as one constant of its state; every claim about every state
is therefore a claim about every configuration (R353).
-/

namespace Sys2Proof

/-- The four booleans the capability probe returns on an instance. Any of the 16 combinations (R8, R353). -/
structure Probe where
  hw1 : Bool
  hwn : Bool
  vw2 : Bool
  vw4 : Bool
deriving DecidableEq, Repr, Inhabited

/-- R8 and R162: PROBE and HW_ELIGIBLE. The set of commands with a hardware path is a list of mnemonics,
read only by membership. -/
structure Config where
  probe : Probe
  hwEligible : List Mnemonic
deriving DecidableEq, Repr, Inhabited

namespace Config

/-- The default of HW_ELIGIBLE (R8, R355): the standard-order rounds and the whole ciphers. -/
def defaultEligible : List Mnemonic :=
  [.round, .finalround, .invround, .invfinalround,
   .rounds, .roundsfin, .invrounds, .invroundsfin,
   .encrypt, .decrypt]

/-- The configuration of the instance that `State.reset` describes. A free value: it has no body, so nothing
can be proved about which of the 16 probes or which HW_ELIGIBLE it is (R8: both are open parameters). -/
opaque deployed : Config

end Config

/-! ## What the storage holds that nothing has written -/

/-- The storage that carries written tags (R32): the lanes of ST and KR, and the bytes of KEYIN. -/
structure Contents where
  st : Quad Block
  kr : Quad Block
  keyin : Vector Byte 32
deriving DecidableEq, Repr, Inhabited

namespace Config

/-- What ST, KR and KEYIN hold after power-on. A free value: "some hardware value the sources do not give" (R471),
which a model must not choose (R32; log entry 2). -/
opaque powerOn : Contents

/-- What ST, KR and KEYIN hold after RESET, from the number of RESETs before it and what they held. A free value, so
that neither an erasure nor a survival of the old contents can be proved (R470, R471; log entry 2). -/
opaque afterReset : Nat → Contents → Contents

end Config

end Sys2Proof
end

