-- ==== Sys2Proof/Syntax.lean ====
section
/-!
DEFINITION. The commands as syntax: one constructor for each of the 39 rows of the opcode map (R104), with
the operand fields its class uses (R106) in the assembler's terms (R111). Lanes, registers and slots are
2-bit indices and so are `Lane`; a round-key index, a round count and a key length are counts, and
WellFormed.lean bounds them.
-/

namespace Sys2Proof

inductive Instr where
  -- class T: `MN[.Ln] s<sl>`
  | subbytes (n : LaneCount) (sl : Lane)
  | invsubbytes (n : LaneCount) (sl : Lane)
  | shiftrows (n : LaneCount) (sl : Lane)
  | invshiftrows (n : LaneCount) (sl : Lane)
  | mixcolumns (n : LaneCount) (sl : Lane)
  | invmixcolumns (n : LaneCount) (sl : Lane)
  -- class TK: `MN[.Ln] s<sl>, kr<k>` or `..., kr`
  | addroundkey (n : LaneCount) (sl : Lane) (key : KeySel)
  | round (n : LaneCount) (sl : Lane) (key : KeySel)
  | finalround (n : LaneCount) (sl : Lane) (key : KeySel)
  | invround (n : LaneCount) (sl : Lane) (key : KeySel)
  | invfinalround (n : LaneCount) (sl : Lane) (key : KeySel)
  | roundkf (n : LaneCount) (sl : Lane) (key : KeySel)
  | finalroundkf (n : LaneCount) (sl : Lane) (key : KeySel)
  | invroundkf (n : LaneCount) (sl : Lane) (key : KeySel)
  | invfinalroundkf (n : LaneCount) (sl : Lane) (key : KeySel)
  -- class T
  | roundnk (n : LaneCount) (sl : Lane)
  | finalroundnk (n : LaneCount) (sl : Lane)
  | invroundnk (n : LaneCount) (sl : Lane)
  | invfinalroundnk (n : LaneCount) (sl : Lane)
  -- class BK: `MN[.Ln] s<sl>, ks<k>@<ri>, #<cnt>` or `..., ks@<ri>, #<cnt>`
  | rounds (n : LaneCount) (sl : Lane) (key : KeySel) (ri cnt : Nat)
  | roundsfin (n : LaneCount) (sl : Lane) (key : KeySel) (ri cnt : Nat)
  | invrounds (n : LaneCount) (sl : Lane) (key : KeySel) (ri cnt : Nat)
  | invroundsfin (n : LaneCount) (sl : Lane) (key : KeySel) (ri cnt : Nat)
  | roundskf (n : LaneCount) (sl : Lane) (key : KeySel) (ri cnt : Nat)
  | roundskffin (n : LaneCount) (sl : Lane) (key : KeySel) (ri cnt : Nat)
  | invroundskf (n : LaneCount) (sl : Lane) (key : KeySel) (ri cnt : Nat)
  | invroundskffin (n : LaneCount) (sl : Lane) (key : KeySel) (ri cnt : Nat)
  -- class BN: `MN[.Ln] s<sl>, #<cnt>`
  | roundsnk (n : LaneCount) (sl : Lane) (cnt : Nat)
  | roundsnkfin (n : LaneCount) (sl : Lane) (cnt : Nat)
  | invroundsnk (n : LaneCount) (sl : Lane) (cnt : Nat)
  | invroundsnkfin (n : LaneCount) (sl : Lane) (cnt : Nat)
  -- class C: `MN[.Ln] s<sl>, ks<k>, <v>` or `..., ks, <v>`
  | encrypt (n : LaneCount) (sl : Lane) (key : KeySel) (v : Variant)
  | decrypt (n : LaneCount) (sl : Lane) (key : KeySel) (v : Variant)
  -- class KEXP: `KEYEXP ks<k>, <l>`
  | keyexp (k : Lane) (l : Nat)
  -- class KINV: `KEYINV ks<k>, ks<ss>`, destination k, source ss
  | keyinv (k ss : Lane)
  -- class RKR: `RKREAD kr<dl>, ks<k>@<ri>` or `RKREAD s<dl>, ks<k>@<ri>`
  | rkread (dst : RegFile) (dl k : Lane) (ri : Nat)
  -- class SYS: no operand
  | capinit
  | qhwavail
  | qlanes
deriving DecidableEq, Repr, Inhabited

end Sys2Proof
end

