-- ==== Sys2Proof/WellFormed.lean ====
section
/-!
DEFINITION. Which instructions the encoding admits: "An assembler rejects an N not in {4, 6, 7, 10, 12, 14},
an RI above 15, an L above 63" (R111). Nothing else about a command is left to check: every other operand is
drawn from a closed set (a lane index, a lane count, a key selection with K = 0 when B = 0, a variant).
A misaligned lane start is well-formed: it "is legal to encode and faults at execution" (R109, R111).
-/

namespace Sys2Proof

/-- R103: the round counts the NC field can name. -/
def roundCounts : List Nat := [4, 6, 7, 10, 12, 14]

/-- R312: a round count is one of the six. -/
def countOk (cnt : Nat) : Bool := roundCounts.contains cnt

/-- R103: a round-key index is a 4-bit field (15 is encodable, though always out of range). -/
def indexOk (ri : Nat) : Bool := decide (ri ≤ 15)

/-- R103: a key length is a 6-bit field, and every value of it is encodable. -/
def lengthOk (l : Nat) : Bool := decide (l ≤ 63)

/-- The well-formed instructions: exactly those that some command word encodes (R103, R111). -/
def Instr.wf : Instr → Bool
  | .subbytes _ _ => true
  | .invsubbytes _ _ => true
  | .shiftrows _ _ => true
  | .invshiftrows _ _ => true
  | .mixcolumns _ _ => true
  | .invmixcolumns _ _ => true
  | .addroundkey _ _ _ => true
  | .round _ _ _ => true
  | .finalround _ _ _ => true
  | .invround _ _ _ => true
  | .invfinalround _ _ _ => true
  | .roundkf _ _ _ => true
  | .finalroundkf _ _ _ => true
  | .invroundkf _ _ _ => true
  | .invfinalroundkf _ _ _ => true
  | .roundnk _ _ => true
  | .finalroundnk _ _ => true
  | .invroundnk _ _ => true
  | .invfinalroundnk _ _ => true
  | .rounds _ _ _ ri cnt => indexOk ri && countOk cnt
  | .roundsfin _ _ _ ri cnt => indexOk ri && countOk cnt
  | .invrounds _ _ _ ri cnt => indexOk ri && countOk cnt
  | .invroundsfin _ _ _ ri cnt => indexOk ri && countOk cnt
  | .roundskf _ _ _ ri cnt => indexOk ri && countOk cnt
  | .roundskffin _ _ _ ri cnt => indexOk ri && countOk cnt
  | .invroundskf _ _ _ ri cnt => indexOk ri && countOk cnt
  | .invroundskffin _ _ _ ri cnt => indexOk ri && countOk cnt
  | .roundsnk _ _ cnt => countOk cnt
  | .roundsnkfin _ _ cnt => countOk cnt
  | .invroundsnk _ _ cnt => countOk cnt
  | .invroundsnkfin _ _ cnt => countOk cnt
  | .encrypt _ _ _ _ => true
  | .decrypt _ _ _ _ => true
  | .keyexp _ l => lengthOk l
  | .keyinv _ _ => true
  | .rkread _ _ _ ri => indexOk ri
  | .capinit => true
  | .qhwavail => true
  | .qlanes => true

end Sys2Proof
end

