-- ==== Sys2Proof/Decode.lean ====
section
/-!
DEFINITION. Command words: the opcode map (R104), the classes and their must-be-zero masks (R106), the fields
(R101, R102), the decoder (R107) and the encoder. Decoding is total and depends on the word alone (R100);
what is not one of the 39 commands is rejected with the reason R107 rejects it for.
-/

namespace Sys2Proof

/-! ## The opcode map -/

/-- The classes of R106. -/
inductive Class where
  | t | tk | bk | bn | c | kexp | kinv | rkr | sys
deriving DecidableEq, Repr, Inhabited

namespace Mnemonic

/-- R104: the opcode of each mnemonic. -/
def op : Mnemonic → BitVec 8
  | .subbytes => 0x01
  | .invsubbytes => 0x02
  | .shiftrows => 0x03
  | .invshiftrows => 0x04
  | .mixcolumns => 0x05
  | .invmixcolumns => 0x06
  | .addroundkey => 0x07
  | .round => 0x10
  | .finalround => 0x11
  | .invround => 0x12
  | .invfinalround => 0x13
  | .roundkf => 0x14
  | .finalroundkf => 0x15
  | .invroundkf => 0x16
  | .invfinalroundkf => 0x17
  | .roundnk => 0x18
  | .finalroundnk => 0x19
  | .invroundnk => 0x1A
  | .invfinalroundnk => 0x1B
  | .rounds => 0x20
  | .roundsfin => 0x21
  | .invrounds => 0x22
  | .invroundsfin => 0x23
  | .roundskf => 0x24
  | .roundskffin => 0x25
  | .invroundskf => 0x26
  | .invroundskffin => 0x27
  | .roundsnk => 0x28
  | .roundsnkfin => 0x29
  | .invroundsnk => 0x2A
  | .invroundsnkfin => 0x2B
  | .encrypt => 0x30
  | .decrypt => 0x31
  | .keyexp => 0x40
  | .keyinv => 0x41
  | .rkread => 0x42
  | .capinit => 0x50
  | .qhwavail => 0x51
  | .qlanes => 0x52

/-- R104: the class of each mnemonic. -/
def cls : Mnemonic → Class
  | .subbytes => .t
  | .invsubbytes => .t
  | .shiftrows => .t
  | .invshiftrows => .t
  | .mixcolumns => .t
  | .invmixcolumns => .t
  | .addroundkey => .tk
  | .round => .tk
  | .finalround => .tk
  | .invround => .tk
  | .invfinalround => .tk
  | .roundkf => .tk
  | .finalroundkf => .tk
  | .invroundkf => .tk
  | .invfinalroundkf => .tk
  | .roundnk => .t
  | .finalroundnk => .t
  | .invroundnk => .t
  | .invfinalroundnk => .t
  | .rounds => .bk
  | .roundsfin => .bk
  | .invrounds => .bk
  | .invroundsfin => .bk
  | .roundskf => .bk
  | .roundskffin => .bk
  | .invroundskf => .bk
  | .invroundskffin => .bk
  | .roundsnk => .bn
  | .roundsnkfin => .bn
  | .invroundsnk => .bn
  | .invroundsnkfin => .bn
  | .encrypt => .c
  | .decrypt => .c
  | .keyexp => .kexp
  | .keyinv => .kinv
  | .rkread => .rkr
  | .capinit => .sys
  | .qhwavail => .sys
  | .qlanes => .sys

/-- The 39 mnemonics in the order of R104. -/
def all : List Mnemonic :=
  [.subbytes, .invsubbytes, .shiftrows, .invshiftrows, .mixcolumns, .invmixcolumns,
   .addroundkey, .round, .finalround, .invround, .invfinalround, .roundkf,
   .finalroundkf, .invroundkf, .invfinalroundkf, .roundnk, .finalroundnk, .invroundnk,
   .invfinalroundnk, .rounds, .roundsfin, .invrounds, .invroundsfin, .roundskf,
   .roundskffin, .invroundskf, .invroundskffin, .roundsnk, .roundsnkfin, .invroundsnk,
   .invroundsnkfin, .encrypt, .decrypt, .keyexp, .keyinv, .rkread,
   .capinit, .qhwavail, .qlanes]

/-- R107, first line: the mnemonic an opcode names, if it is one of the 39. -/
def ofOp (o : BitVec 8) : Option Mnemonic := all.find? fun m => m.op == o

end Mnemonic

namespace Class

/-- R106: a 1 for every bit of OP and every bit the class does not use. -/
def mask : Class → Word
  | .t => 0xFF0FFFFF
  | .tk => 0xFF01FFFF
  | .bk => 0xFF0003FF
  | .bn => 0xFF0FE3FF
  | .c => 0xFF01E7FF
  | .kexp => 0xFFF9E07F
  | .kinv => 0xFFF9E7FF
  | .rkr => 0xFFF803FF
  | .sys => 0xFFFFFFFF

/-- R151: the datapath commands are those of classes T, TK, BK, BN and C. -/
def datapath : Class → Bool
  | .t | .tk | .bk | .bn | .c => true
  | .kexp | .kinv | .rkr | .sys => false

end Class

/-- R106: `match = OP << 24`. -/
def Mnemonic.pattern (m : Mnemonic) : Word := m.op ++ (0 : BitVec 24)

/-- The mnemonic of an instruction. -/
def Instr.mnemonic : Instr → Mnemonic
  | .subbytes _ _ => .subbytes
  | .invsubbytes _ _ => .invsubbytes
  | .shiftrows _ _ => .shiftrows
  | .invshiftrows _ _ => .invshiftrows
  | .mixcolumns _ _ => .mixcolumns
  | .invmixcolumns _ _ => .invmixcolumns
  | .addroundkey _ _ _ => .addroundkey
  | .round _ _ _ => .round
  | .finalround _ _ _ => .finalround
  | .invround _ _ _ => .invround
  | .invfinalround _ _ _ => .invfinalround
  | .roundkf _ _ _ => .roundkf
  | .finalroundkf _ _ _ => .finalroundkf
  | .invroundkf _ _ _ => .invroundkf
  | .invfinalroundkf _ _ _ => .invfinalroundkf
  | .roundnk _ _ => .roundnk
  | .finalroundnk _ _ => .finalroundnk
  | .invroundnk _ _ => .invroundnk
  | .invfinalroundnk _ _ => .invfinalroundnk
  | .rounds _ _ _ _ _ => .rounds
  | .roundsfin _ _ _ _ _ => .roundsfin
  | .invrounds _ _ _ _ _ => .invrounds
  | .invroundsfin _ _ _ _ _ => .invroundsfin
  | .roundskf _ _ _ _ _ => .roundskf
  | .roundskffin _ _ _ _ _ => .roundskffin
  | .invroundskf _ _ _ _ _ => .invroundskf
  | .invroundskffin _ _ _ _ _ => .invroundskffin
  | .roundsnk _ _ _ => .roundsnk
  | .roundsnkfin _ _ _ => .roundsnkfin
  | .invroundsnk _ _ _ => .invroundsnk
  | .invroundsnkfin _ _ _ => .invroundsnkfin
  | .encrypt _ _ _ _ => .encrypt
  | .decrypt _ _ _ _ => .decrypt
  | .keyexp _ _ => .keyexp
  | .keyinv _ _ => .keyinv
  | .rkread _ _ _ _ => .rkread
  | .capinit => .capinit
  | .qhwavail => .qhwavail
  | .qlanes => .qlanes

/-- The lane count of a datapath command; none for the others, which have no lanes (R151). -/
def Instr.laneCount? : Instr → Option LaneCount
  | .subbytes n _ => some n
  | .invsubbytes n _ => some n
  | .shiftrows n _ => some n
  | .invshiftrows n _ => some n
  | .mixcolumns n _ => some n
  | .invmixcolumns n _ => some n
  | .addroundkey n _ _ => some n
  | .round n _ _ => some n
  | .finalround n _ _ => some n
  | .invround n _ _ => some n
  | .invfinalround n _ _ => some n
  | .roundkf n _ _ => some n
  | .finalroundkf n _ _ => some n
  | .invroundkf n _ _ => some n
  | .invfinalroundkf n _ _ => some n
  | .roundnk n _ => some n
  | .finalroundnk n _ => some n
  | .invroundnk n _ => some n
  | .invfinalroundnk n _ => some n
  | .rounds n _ _ _ _ => some n
  | .roundsfin n _ _ _ _ => some n
  | .invrounds n _ _ _ _ => some n
  | .invroundsfin n _ _ _ _ => some n
  | .roundskf n _ _ _ _ => some n
  | .roundskffin n _ _ _ _ => some n
  | .invroundskf n _ _ _ _ => some n
  | .invroundskffin n _ _ _ _ => some n
  | .roundsnk n _ _ => some n
  | .roundsnkfin n _ _ => some n
  | .invroundsnk n _ _ => some n
  | .invroundsnkfin n _ _ => some n
  | .encrypt n _ _ _ => some n
  | .decrypt n _ _ _ => some n
  | .keyexp _ _ => none
  | .keyinv _ _ => none
  | .rkread _ _ _ _ => none
  | .capinit => none
  | .qhwavail => none
  | .qlanes => none

/-- The first state lane SL of a datapath command (R152). -/
def Instr.start? : Instr → Option Lane
  | .subbytes _ sl => some sl
  | .invsubbytes _ sl => some sl
  | .shiftrows _ sl => some sl
  | .invshiftrows _ sl => some sl
  | .mixcolumns _ sl => some sl
  | .invmixcolumns _ sl => some sl
  | .addroundkey _ sl _ => some sl
  | .round _ sl _ => some sl
  | .finalround _ sl _ => some sl
  | .invround _ sl _ => some sl
  | .invfinalround _ sl _ => some sl
  | .roundkf _ sl _ => some sl
  | .finalroundkf _ sl _ => some sl
  | .invroundkf _ sl _ => some sl
  | .invfinalroundkf _ sl _ => some sl
  | .roundnk _ sl => some sl
  | .finalroundnk _ sl => some sl
  | .invroundnk _ sl => some sl
  | .invfinalroundnk _ sl => some sl
  | .rounds _ sl _ _ _ => some sl
  | .roundsfin _ sl _ _ _ => some sl
  | .invrounds _ sl _ _ _ => some sl
  | .invroundsfin _ sl _ _ _ => some sl
  | .roundskf _ sl _ _ _ => some sl
  | .roundskffin _ sl _ _ _ => some sl
  | .invroundskf _ sl _ _ _ => some sl
  | .invroundskffin _ sl _ _ _ => some sl
  | .roundsnk _ sl _ => some sl
  | .roundsnkfin _ sl _ => some sl
  | .invroundsnk _ sl _ => some sl
  | .invroundsnkfin _ sl _ => some sl
  | .encrypt _ sl _ _ => some sl
  | .decrypt _ sl _ _ => some sl
  | .keyexp _ _ => none
  | .keyinv _ _ => none
  | .rkread _ _ _ _ => none
  | .capinit => none
  | .qhwavail => none
  | .qlanes => none

/-! ## Fields of a command word (R101, R102) -/

/-- OP, bits 31:24. -/
def opField (cw : Word) : BitVec 8 := cw.extractLsb' 24 8
/-- LN, bits 23:22. -/
def lnField (cw : Word) : BitVec 2 := cw.extractLsb' 22 2
/-- SL, bits 21:20. -/
def slField (cw : Word) : BitVec 2 := cw.extractLsb' 20 2
/-- B, bit 19. -/
def bField (cw : Word) : BitVec 1 := cw.extractLsb' 19 1
/-- K, bits 18:17. -/
def kField (cw : Word) : BitVec 2 := cw.extractLsb' 17 2
/-- RI, bits 16:13. -/
def riField (cw : Word) : BitVec 4 := cw.extractLsb' 13 4
/-- NC, bits 12:10. -/
def ncField (cw : Word) : BitVec 3 := cw.extractLsb' 10 3
/-- V, SS and DL, bits 12:11. -/
def x2Field (cw : Word) : BitVec 2 := cw.extractLsb' 11 2
/-- L, bits 12:7. -/
def lField (cw : Word) : BitVec 6 := cw.extractLsb' 7 6
/-- D, bit 10. -/
def dField (cw : Word) : BitVec 1 := cw.extractLsb' 10 1

/-- A command word from its seven fields (R101), X being bits 12:0. -/
def fields (op : BitVec 8) (ln sl : BitVec 2) (b : BitVec 1) (k : BitVec 2) (ri : BitVec 4) (x : BitVec 13) : Word :=
  op ++ ln ++ sl ++ b ++ k ++ ri ++ x

/-! ## The codes of R103 -/

/-- An index 0..3 as it stands in a 2-bit field. -/
def laneOf (v : BitVec 2) : Lane := v.toFin

/-- LN: 0 is 1 lane, 1 is 2 lanes, 2 is 4 lanes, 3 is illegal. -/
def laneCountOf (v : BitVec 2) : Option LaneCount :=
  if v = 0 then some .one else if v = 1 then some .two else if v = 2 then some .four else none

/-- B and K: with B = 0, K must be 0 (R107). -/
def keySelOf (b : BitVec 1) (k : BitVec 2) : Option KeySel :=
  if b = 1 then some (.broadcast (laneOf k)) else if k = 0 then some .perLane else none

/-- NC: the codes 0 to 5 are 4, 6, 7, 10, 12 and 14 rounds; 6 and 7 are illegal. -/
def roundCountOf (v : BitVec 3) : Option Nat := roundCounts[v.toNat]?

/-- V: the expected variant. -/
def variantOf (v : BitVec 2) : Variant :=
  if v = 0 then .any else if v = 1 then .aes128 else if v = 2 then .aes192 else .aes256

/-- D: the destination file of RKREAD. -/
def regFileOf (v : BitVec 1) : RegFile := if v = 0 then .kr else .st

/-- An index 0..3 as a 2-bit field. -/
def laneCode (l : Lane) : BitVec 2 := BitVec.ofFin l

/-- The LN code of a lane count. -/
def LaneCount.code : LaneCount → BitVec 2
  | .one => 0
  | .two => 1
  | .four => 2

/-- The B bit of a key selection. -/
def KeySel.b : KeySel → BitVec 1
  | .broadcast _ => 1
  | .perLane => 0

/-- The K field of a key selection: 0 with B = 0. -/
def KeySel.k : KeySel → BitVec 2
  | .broadcast k => laneCode k
  | .perLane => 0

/-- The NC code of a round count (any other count has no code; WellFormed.lean shuts it out). -/
def roundCountCode (cnt : Nat) : BitVec 3 := BitVec.ofNat 3 (roundCounts.idxOf cnt)

/-- The V code of a variant. -/
def Variant.code : Variant → BitVec 2
  | .any => 0
  | .aes128 => 1
  | .aes192 => 2
  | .aes256 => 3

/-- The D bit of a destination file. -/
def RegFile.code : RegFile → BitVec 1
  | .kr => 0
  | .st => 1

/-! ## The decoder (R107) -/

/-- Why a word is ILLEGAL: the lines of R107's decode, in its order. Each raises the same
Fatal(ILLEGAL_COMMAND); the reason is for the reader. -/
inductive Illegal where
  /-- OP is not one of the 39 opcodes. -/
  | opcode
  /-- A must-be-zero bit is 1. -/
  | mustBeZero
  /-- LN = 3. -/
  | laneCount
  /-- Per-lane keys (B = 0) with K not 0. -/
  | perLaneKey
  /-- NC = 6 or 7. -/
  | roundCount
deriving DecidableEq, Repr, Inhabited

/-- Class T and the lane fields of every datapath class. -/
def decodeLanes (cw : Word) (mk : LaneCount → Lane → Instr) : Except Illegal Instr :=
  match laneCountOf (lnField cw) with
  | none => .error .laneCount
  | some n => .ok (mk n (laneOf (slField cw)))

/-- Class TK: lanes, then the key selection. -/
def decodeKeyed (cw : Word) (mk : LaneCount → Lane → KeySel → Instr) : Except Illegal Instr :=
  match laneCountOf (lnField cw) with
  | none => .error .laneCount
  | some n =>
    match keySelOf (bField cw) (kField cw) with
    | none => .error .perLaneKey
    | some key => .ok (mk n (laneOf (slField cw)) key)

/-- Class BK: lanes, key selection, RI, and the round count. -/
def decodeBatchedKeyed (cw : Word) (mk : LaneCount → Lane → KeySel → Nat → Nat → Instr) : Except Illegal Instr :=
  match laneCountOf (lnField cw) with
  | none => .error .laneCount
  | some n =>
    match keySelOf (bField cw) (kField cw) with
    | none => .error .perLaneKey
    | some key =>
      match roundCountOf (ncField cw) with
      | none => .error .roundCount
      | some cnt => .ok (mk n (laneOf (slField cw)) key (riField cw).toNat cnt)

/-- Class BN: lanes and the round count. -/
def decodeBatched (cw : Word) (mk : LaneCount → Lane → Nat → Instr) : Except Illegal Instr :=
  match laneCountOf (lnField cw) with
  | none => .error .laneCount
  | some n =>
    match roundCountOf (ncField cw) with
    | none => .error .roundCount
    | some cnt => .ok (mk n (laneOf (slField cw)) cnt)

/-- Class C: lanes, key selection and V. -/
def decodeCipher (cw : Word) (mk : LaneCount → Lane → KeySel → Variant → Instr) : Except Illegal Instr :=
  decodeKeyed cw fun n sl key => mk n sl key (variantOf (x2Field cw))

/-- The operand fields of a word whose opcode is that of `m` and whose must-be-zero bits are 0. -/
def decodeOperands (m : Mnemonic) (cw : Word) : Except Illegal Instr :=
  match m with
  | .subbytes => decodeLanes cw .subbytes
  | .invsubbytes => decodeLanes cw .invsubbytes
  | .shiftrows => decodeLanes cw .shiftrows
  | .invshiftrows => decodeLanes cw .invshiftrows
  | .mixcolumns => decodeLanes cw .mixcolumns
  | .invmixcolumns => decodeLanes cw .invmixcolumns
  | .addroundkey => decodeKeyed cw .addroundkey
  | .round => decodeKeyed cw .round
  | .finalround => decodeKeyed cw .finalround
  | .invround => decodeKeyed cw .invround
  | .invfinalround => decodeKeyed cw .invfinalround
  | .roundkf => decodeKeyed cw .roundkf
  | .finalroundkf => decodeKeyed cw .finalroundkf
  | .invroundkf => decodeKeyed cw .invroundkf
  | .invfinalroundkf => decodeKeyed cw .invfinalroundkf
  | .roundnk => decodeLanes cw .roundnk
  | .finalroundnk => decodeLanes cw .finalroundnk
  | .invroundnk => decodeLanes cw .invroundnk
  | .invfinalroundnk => decodeLanes cw .invfinalroundnk
  | .rounds => decodeBatchedKeyed cw .rounds
  | .roundsfin => decodeBatchedKeyed cw .roundsfin
  | .invrounds => decodeBatchedKeyed cw .invrounds
  | .invroundsfin => decodeBatchedKeyed cw .invroundsfin
  | .roundskf => decodeBatchedKeyed cw .roundskf
  | .roundskffin => decodeBatchedKeyed cw .roundskffin
  | .invroundskf => decodeBatchedKeyed cw .invroundskf
  | .invroundskffin => decodeBatchedKeyed cw .invroundskffin
  | .roundsnk => decodeBatched cw .roundsnk
  | .roundsnkfin => decodeBatched cw .roundsnkfin
  | .invroundsnk => decodeBatched cw .invroundsnk
  | .invroundsnkfin => decodeBatched cw .invroundsnkfin
  | .encrypt => decodeCipher cw .encrypt
  | .decrypt => decodeCipher cw .decrypt
  | .keyexp => .ok (.keyexp (laneOf (kField cw)) (lField cw).toNat)
  | .keyinv => .ok (.keyinv (laneOf (kField cw)) (laneOf (x2Field cw)))
  | .rkread => .ok (.rkread (regFileOf (dField cw)) (laneOf (x2Field cw)) (laneOf (kField cw)) (riField cw).toNat)
  | .capinit => .ok .capinit
  | .qhwavail => .ok .qhwavail
  | .qlanes => .ok .qlanes

/-- R107: the command a word names, or why it names none. -/
def decode (cw : Word) : Except Illegal Instr :=
  match Mnemonic.ofOp (opField cw) with
  | none => .error .opcode
  | some m => if cw &&& m.cls.mask = m.pattern then decodeOperands m cw else .error .mustBeZero

/-- The host's question: the instruction this decoder reads from a table row's word. A command is one 32-bit
word (R100), so the row's `nbits` low bits are the word and every bit above them is 0. -/
def decodeTableWord (nbits w : Nat) : Option Instr :=
  if nbits ≤ 32 then (decode (BitVec.ofNat 32 (w % 2 ^ nbits))).toOption else none

/-! ## The encoder -/

/-- Class T: every unused field 0. -/
def encodeLanes (m : Mnemonic) (n : LaneCount) (sl : Lane) : Word :=
  fields m.op n.code (laneCode sl) 0 0 0 0

/-- Class TK. -/
def encodeKeyed (m : Mnemonic) (n : LaneCount) (sl : Lane) (key : KeySel) : Word :=
  fields m.op n.code (laneCode sl) key.b key.k 0 0

/-- Class BK: NC is X[12:10]. -/
def encodeBatchedKeyed (m : Mnemonic) (n : LaneCount) (sl : Lane) (key : KeySel) (ri cnt : Nat) : Word :=
  fields m.op n.code (laneCode sl) key.b key.k (BitVec.ofNat 4 ri) (roundCountCode cnt ++ (0 : BitVec 10))

/-- Class BN. -/
def encodeBatched (m : Mnemonic) (n : LaneCount) (sl : Lane) (cnt : Nat) : Word :=
  fields m.op n.code (laneCode sl) 0 0 0 (roundCountCode cnt ++ (0 : BitVec 10))

/-- Class C: V is X[12:11]. -/
def encodeCipher (m : Mnemonic) (n : LaneCount) (sl : Lane) (key : KeySel) (v : Variant) : Word :=
  fields m.op n.code (laneCode sl) key.b key.k 0 (v.code ++ (0 : BitVec 11))

/-- The command word of an instruction (R101, R102, R106): the one word that decodes to it when it is
well-formed, and the word that FCMD records when the command raises a Fatal (R39, R424). -/
def encode : Instr → Word
  | .subbytes n sl => encodeLanes .subbytes n sl
  | .invsubbytes n sl => encodeLanes .invsubbytes n sl
  | .shiftrows n sl => encodeLanes .shiftrows n sl
  | .invshiftrows n sl => encodeLanes .invshiftrows n sl
  | .mixcolumns n sl => encodeLanes .mixcolumns n sl
  | .invmixcolumns n sl => encodeLanes .invmixcolumns n sl
  | .addroundkey n sl key => encodeKeyed .addroundkey n sl key
  | .round n sl key => encodeKeyed .round n sl key
  | .finalround n sl key => encodeKeyed .finalround n sl key
  | .invround n sl key => encodeKeyed .invround n sl key
  | .invfinalround n sl key => encodeKeyed .invfinalround n sl key
  | .roundkf n sl key => encodeKeyed .roundkf n sl key
  | .finalroundkf n sl key => encodeKeyed .finalroundkf n sl key
  | .invroundkf n sl key => encodeKeyed .invroundkf n sl key
  | .invfinalroundkf n sl key => encodeKeyed .invfinalroundkf n sl key
  | .roundnk n sl => encodeLanes .roundnk n sl
  | .finalroundnk n sl => encodeLanes .finalroundnk n sl
  | .invroundnk n sl => encodeLanes .invroundnk n sl
  | .invfinalroundnk n sl => encodeLanes .invfinalroundnk n sl
  | .rounds n sl key ri cnt => encodeBatchedKeyed .rounds n sl key ri cnt
  | .roundsfin n sl key ri cnt => encodeBatchedKeyed .roundsfin n sl key ri cnt
  | .invrounds n sl key ri cnt => encodeBatchedKeyed .invrounds n sl key ri cnt
  | .invroundsfin n sl key ri cnt => encodeBatchedKeyed .invroundsfin n sl key ri cnt
  | .roundskf n sl key ri cnt => encodeBatchedKeyed .roundskf n sl key ri cnt
  | .roundskffin n sl key ri cnt => encodeBatchedKeyed .roundskffin n sl key ri cnt
  | .invroundskf n sl key ri cnt => encodeBatchedKeyed .invroundskf n sl key ri cnt
  | .invroundskffin n sl key ri cnt => encodeBatchedKeyed .invroundskffin n sl key ri cnt
  | .roundsnk n sl cnt => encodeBatched .roundsnk n sl cnt
  | .roundsnkfin n sl cnt => encodeBatched .roundsnkfin n sl cnt
  | .invroundsnk n sl cnt => encodeBatched .invroundsnk n sl cnt
  | .invroundsnkfin n sl cnt => encodeBatched .invroundsnkfin n sl cnt
  | .encrypt n sl key v => encodeCipher .encrypt n sl key v
  | .decrypt n sl key v => encodeCipher .decrypt n sl key v
  | .keyexp k l => fields (Mnemonic.keyexp).op 0 0 0 (laneCode k) 0 (BitVec.ofNat 6 l ++ (0 : BitVec 7))
  | .keyinv k ss => fields (Mnemonic.keyinv).op 0 0 0 (laneCode k) 0 (laneCode ss ++ (0 : BitVec 11))
  | .rkread dst dl k ri =>
      fields (Mnemonic.rkread).op 0 0 0 (laneCode k) (BitVec.ofNat 4 ri) (laneCode dl ++ dst.code ++ (0 : BitVec 10))
  | .capinit => fields (Mnemonic.capinit).op 0 0 0 0 0 0
  | .qhwavail => fields (Mnemonic.qhwavail).op 0 0 0 0 0 0
  | .qlanes => fields (Mnemonic.qlanes).op 0 0 0 0 0 0

end Sys2Proof
end

