-- ==== Sys2Proof/Machine/State.lean ====
section
/-!
DEFINITION. The state of the machine as plain data: every row of the state table of 10_state.md, and four
fields that are the model's own (the instance's configuration, the operations the hosts will present, the
last reply, the count of RESETs). There is no memory, no program counter, no mode and no other register (R42, R43, R44, R70).

The written tags are state (R32). What a lane or byte whose tag is false holds is a free value, which nothing
constrains and no operation can read: a read of it is the model fault Unwritten (DESIGN CHOICE for where the value
stands, log entry 2).
-/

namespace Sys2Proof.Machine

/-- A key-schedule slot (R34): the round count (0 for an empty slot) and the round keys RK[0..ROUNDS].
The entries above ROUNDS, which no operation can read, have no field (R35, R471; log entry 3). -/
structure Slot where
  rounds : Nat
  rk : List Block
deriving DecidableEq, Repr, Inhabited

/-- The reply of a host-port operation (R85): none, 16 bytes, or 32 bits. -/
inductive Reply where
  | none
  | block (v : Block)
  | word (v : Word)
deriving DecidableEq, Repr, Inhabited

/-- The host-port operations of R85, with their inputs. A lane index is any number: one above 3 is a
contract violation (R93), and so is a KEYIN transfer longer than 32 bytes. -/
inductive HostOp where
  | writeSt (i : Nat) (v : Block)
  | readSt (i : Nat)
  | writeKr (i : Nat) (v : Block)
  | writeKeyin (b : List Byte)
  | readKr (i : Nat)
  | readCaps
  | readStatus
  | readFcmd
  | readRes
  | issue (cw : Word)
  | reset
deriving DecidableEq, Repr, Inhabited

/-- The state of 10_state.md. -/
structure State where
  /-- ST[0..3] (R30). -/
  st : Quad Block
  /-- WST[0..3] (R32). -/
  wst : Quad Bool
  /-- KR[0..3] (R31). -/
  kr : Quad Block
  /-- WKR[0..3] (R32). -/
  wkr : Quad Bool
  /-- KEYIN[0..31] (R33). -/
  keyin : Vector Byte 32
  /-- WKI[0..31] (R32). -/
  wki : Vector Bool 32
  /-- KS[0..3] (R34). -/
  ks : Quad Slot
  /-- CAPS (R37). -/
  caps : Word
  /-- STATUS (R38). The engine is HALTED exactly when its FATAL bit is 1 (R41). -/
  status : Word
  /-- FCMD (R39). -/
  fcmd : Word
  /-- RES (R40). -/
  res : Word
  /-- The instance's configuration, constant (R8, R45; log entry 4). -/
  config : Config
  /-- The operations the hosts will still present, in the order the port accepts them: the hosts' state,
  not the engine's (R42, R78, R79; log entry 5). -/
  port : List HostOp
  /-- The reply of the last accepted operation (R85; log entry 5). -/
  reply : Reply
  /-- How many RESETs there have been: the counter of the free value `Config.afterReset` (log entry 2). -/
  resets : Nat
deriving DecidableEq, Repr

/-- Why the model stops on an operation that the engine accepts. -/
inductive Fault where
  /-- The model fault Unwritten, the third outcome of R162: a command operand, READ_ST, READ_KR or KEYEXP reads a lane
  or byte whose written tag is 0 (R32, R157, R428). It "ends the model run" (R150), and nothing is committed (R157,
  R158). Raised by `execute` and by the port's reads. Safe: the hardware goes on with a value that no source gives, and
  the model proves nothing of that run (R428). -/
  | unwritten
deriving DecidableEq, Repr

/-- Why the machine gives an operation no step. -/
inductive Refusal where
  /-- An instruction that has no meaning yet. Raised by `exec` alone; no arm raises it. Safe. -/
  | notModelled (mnemonic : String)
  /-- The engine is HALTED and the operation is none of RESET, READ_STATUS and READ_FCMD: "the hardware
  ignores them. A model gives them no step" (R96, R427). Raised by the port. Safe. -/
  | halted
deriving DecidableEq, Repr

namespace State

/-- RESET and power-on (R470). CAPS, STATUS, FCMD and RES are 0, every slot is empty, every written tag is 0.
ST, KR and KEYIN hold the free value `Config.powerOn` (R471; DESIGN CHOICE, log entry 2); the configuration is
the open parameters PROBE and HW_ELIGIBLE (log entry 4); no host operation is pending (R472, log entry 5). -/
def reset : State where
  st := Config.powerOn.st
  wst := ⟨false, false, false, false⟩
  kr := Config.powerOn.kr
  wkr := ⟨false, false, false, false⟩
  keyin := Config.powerOn.keyin
  wki := Vector.replicate 32 false
  ks := ⟨⟨0, []⟩, ⟨0, []⟩, ⟨0, []⟩, ⟨0, []⟩⟩
  caps := 0
  status := 0
  fcmd := 0
  res := 0
  config := Config.deployed
  port := []
  reply := .none
  resets := 0

end State

end Sys2Proof.Machine
end

