-- ==== Sys2Proof/Machine/Bytes.lean ====
section
/-!
DEFINITION. Access to files of four, and the byte view of Columns and Blocks: which byte is b[j] (R9, R72),
XOR of byte vectors (R10), and the container views of the register files (R36).
-/

namespace Sys2Proof

namespace Quad

/-- Entry i of a file. -/
def get {α : Type} (q : Quad α) (i : Lane) : α :=
  match i with
  | 0 => q.e0
  | 1 => q.e1
  | 2 => q.e2
  | 3 => q.e3

/-- The file whose entry i is `f i`. -/
def ofFn {α : Type} (f : Lane → α) : Quad α := ⟨f 0, f 1, f 2, f 3⟩

/-- Entry i replaced. -/
def set {α : Type} (q : Quad α) (i : Lane) (v : α) : Quad α :=
  ofFn fun j => if j = i then v else q.get j

/-- The four indices, ascending. -/
def indices : List Lane := [0, 1, 2, 3]

end Quad

namespace Column

/-- Byte r of a group of four (R72). -/
def byte (c : Column) (r : Lane) : Byte :=
  match r with
  | 0 => c.r0
  | 1 => c.r1
  | 2 => c.r2
  | 3 => c.r3

/-- Bytewise XOR (R10). -/
def xor (a b : Column) : Column := ⟨a.r0 ^^^ b.r0, a.r1 ^^^ b.r1, a.r2 ^^^ b.r2, a.r3 ^^^ b.r3⟩

/-- The same byte function on each byte. -/
def map (f : Byte → Byte) (c : Column) : Column := ⟨f c.r0, f c.r1, f c.r2, f c.r3⟩

end Column

namespace Block

/-- Column c of a Block: bytes 4c to 4c + 3 (R187). -/
def col (b : Block) (c : Lane) : Column :=
  match c with
  | 0 => b.c0
  | 1 => b.c1
  | 2 => b.c2
  | 3 => b.c3

/-- Byte j of a Block: row j mod 4 of column j div 4 (R9, R187). -/
def byte (b : Block) (j : Fin 16) : Byte :=
  (b.col ⟨j.val / 4, by omega⟩).byte ⟨j.val % 4, by omega⟩

/-- The Block whose byte j is `f j`. -/
def ofFn (f : Fin 16 → Byte) : Block :=
  ⟨⟨f 0, f 1, f 2, f 3⟩, ⟨f 4, f 5, f 6, f 7⟩, ⟨f 8, f 9, f 10, f 11⟩, ⟨f 12, f 13, f 14, f 15⟩⟩

/-- A column function on each of the four columns. -/
def mapCols (f : Column → Column) (b : Block) : Block := ⟨f b.c0, f b.c1, f b.c2, f b.c3⟩

/-- A byte function on each of the 16 bytes. -/
def map (f : Byte → Byte) (b : Block) : Block := b.mapCols (Column.map f)

/-- Bytewise XOR of two Blocks (R10). -/
def xor (a b : Block) : Block := ⟨a.c0.xor b.c0, a.c1.xor b.c1, a.c2.xor b.c2, a.c3.xor b.c3⟩

/-- The Block of 16 zero bytes. -/
def zero : Block := ofFn fun _ => 0

/-- The Block that a 32-digit hexadecimal string writes, byte 0 first (R9): the string read as one number,
whose most significant byte is byte 0. -/
def ofHex (h : Nat) : Block := ofFn fun j => BitVec.ofNat 8 (h >>> (8 * (15 - j.val)))

end Block

namespace Machine

/-- R36: byte j (0..63) of the Block4 view of a register file is byte j mod 16 of lane j div 16. -/
def block4Byte (q : Quad Block) (j : Fin 64) : Byte :=
  (q.get ⟨j.val / 16, by omega⟩).byte ⟨j.val % 16, by omega⟩

/-- R36: byte j (0..31) of the 2-lane container that starts at lane 0 or lane 2. -/
def block2Byte (q : Quad Block) (high : Bool) (j : Fin 32) : Byte :=
  block4Byte q ⟨(if high then 32 else 0) + j.val, by split <;> omega⟩

end Machine

end Sys2Proof
end

