-- ==== Sys2Proof/Machine/Gf.lean ====
section
/-!
DEFINITION. Arithmetic in GF(2^8) (R180 to R183). Addition is XOR; doubling is the source's formula, and every
product is composed from doublings.
-/

namespace Sys2Proof.Machine

/-- R181: multiplication by x, reduced by 0x1B when the high bit is set. -/
def double (x : Byte) : Byte := (x <<< 1) ^^^ (if x.msb then 0x1B else 0x00)

/-- R182: the constant multipliers of the mixing steps. -/
def mul1 (x : Byte) : Byte := x

/-- R182. -/
def mul2 (x : Byte) : Byte := double x

/-- R182. -/
def mul3 (x : Byte) : Byte := double x ^^^ x

/-- R182. -/
def mul9 (x : Byte) : Byte := double (double (double x)) ^^^ x

/-- R182. -/
def mul11 (x : Byte) : Byte := double (double (double x)) ^^^ double x ^^^ x

/-- R182. -/
def mul13 (x : Byte) : Byte := double (double (double x)) ^^^ double (double x) ^^^ x

/-- R182. -/
def mul14 (x : Byte) : Byte := double (double (double x)) ^^^ double (double x) ^^^ double x

/-- The loop of R183: `n` more rounds, with the running result r and the two shifting operands. -/
def gmulLoop : Nat → Byte → Byte → Byte → Byte
  | 0, r, _, _ => r
  | n + 1, r, a, b => gmulLoop n (if b.getLsbD 0 then r ^^^ a else r) (double a) (b >>> 1)

/-- R183: the product of two arbitrary elements. -/
def gmul (a b : Byte) : Byte := gmulLoop 8 0 a b

end Sys2Proof.Machine
end

