-- ==== Sys2Proof/Machine/Blocks.lean ====
section
/-!
DEFINITION. The pure Block functions of 41_transforms.md section 4: substitution, row rotation, column mixing
and key addition, with their inverses. Every command of the datapath is composed from these.
-/

namespace Sys2Proof.Machine

/-- sub: the S-box on every byte (R184). -/
def sub (s : Block) : Block := s.map sbox

/-- isub: the inverse S-box on every byte (R186). -/
def isub (s : Block) : Block := s.map invSbox

/-- R188: the index table of the forward row rotation. -/
def srTable : List (Fin 16) := [0, 5, 10, 15, 4, 9, 14, 3, 8, 13, 2, 7, 12, 1, 6, 11]

/-- R188: the index table of the inverse row rotation. -/
def isrTable : List (Fin 16) := [0, 13, 10, 7, 4, 1, 14, 11, 8, 5, 2, 15, 12, 9, 6, 3]

/-- `out[j] = in[T[j]]` (R188). -/
def permute (t : List (Fin 16)) (s : Block) : Block := Block.ofFn fun j => s.byte (t.getD j.val 0)

/-- shr: row r moves left by r positions (R188). -/
def shr (s : Block) : Block := permute srTable s

/-- ishr: row r moves right by r positions (R188). -/
def ishr (s : Block) : Block := permute isrTable s

/-- R189, forward: the circulant matrix with first row (2, 3, 1, 1). -/
def mixColumn (a : Column) : Column where
  r0 := mul2 a.r0 ^^^ mul3 a.r1 ^^^ a.r2 ^^^ a.r3
  r1 := a.r0 ^^^ mul2 a.r1 ^^^ mul3 a.r2 ^^^ a.r3
  r2 := a.r0 ^^^ a.r1 ^^^ mul2 a.r2 ^^^ mul3 a.r3
  r3 := mul3 a.r0 ^^^ a.r1 ^^^ a.r2 ^^^ mul2 a.r3

/-- R189, inverse: the circulant matrix with first row (14, 11, 13, 9). -/
def invMixColumn (a : Column) : Column where
  r0 := mul14 a.r0 ^^^ mul11 a.r1 ^^^ mul13 a.r2 ^^^ mul9 a.r3
  r1 := mul9 a.r0 ^^^ mul14 a.r1 ^^^ mul11 a.r2 ^^^ mul13 a.r3
  r2 := mul13 a.r0 ^^^ mul9 a.r1 ^^^ mul14 a.r2 ^^^ mul11 a.r3
  r3 := mul11 a.r0 ^^^ mul13 a.r1 ^^^ mul9 a.r2 ^^^ mul14 a.r3

/-- mix: forward mixing of each column (R189). -/
def mix (s : Block) : Block := s.mapCols mixColumn

/-- imix: inverse mixing of each column (R189). -/
def imix (s : Block) : Block := s.mapCols invMixColumn

/-- ark: key addition (41_transforms.md section 4). -/
def ark (s k : Block) : Block := s.xor k

end Sys2Proof.Machine
end

