-- ==== Sys2Proof/Machine/RoundFn.lean ====
section
/-!
DEFINITION. The round function (R231), the batched composition (R311), and the whole cipher and its inverse
(R330, R331), as functions of Blocks and keys.
-/

namespace Sys2Proof.Machine

/-- R230: the three composition orders: standard, key-first, no-key. -/
inductive Ord where
  | std
  | kf
  | nk
deriving DecidableEq, Repr

/-- R231: the round function `rnd(ord, inv, fin, s, k)`. The key is ignored when the order is no-key. -/
def rnd (ord : Ord) (inv fin : Bool) (s k : Block) : Block :=
  match ord, inv, fin with
  | .std, false, false => (mix (shr (sub s))).xor k
  | .std, false, true => (shr (sub s)).xor k
  | .std, true, false => (imix (isub (ishr s))).xor k
  | .std, true, true => (isub (ishr s)).xor k
  | .kf, false, false => mix (shr (sub (s.xor k)))
  | .kf, false, true => shr (sub (s.xor k))
  | .kf, true, false => imix (isub (ishr (s.xor k)))
  | .kf, true, true => isub (ishr (s.xor k))
  | .nk, false, false => mix (shr (sub s))
  | .nk, false, true => shr (sub s)
  | .nk, true, false => imix (isub (ishr s))
  | .nk, true, true => isub (ishr s)

/-- R311: `for j in 0 .. N-1: s <- rnd(ord, inv, fin = 1 and j = N-1, s, k[j])`. -/
def batch (ord : Ord) (inv fin : Bool) (cnt : Nat) (s : Block) (k : Nat → Block) : Block :=
  (List.range cnt).foldl (fun x j => rnd ord inv (fin && j + 1 == cnt) x (k j)) s

/-- R330: key addition with rk[0], nr - 1 ROUNDs, one FINALROUND. -/
def encryptBlock (nr : Nat) (rk : Nat → Block) (s : Block) : Block :=
  rnd .std false true
    ((List.range (nr - 1)).foldl (fun x j => rnd .std false false x (rk (j + 1))) (s.xor (rk 0)))
    (rk nr)

/-- R331: key addition with irk[0], nr - 1 INVROUNDs, one INVFINALROUND. -/
def decryptBlock (nr : Nat) (irk : Nat → Block) (s : Block) : Block :=
  rnd .std true true
    ((List.range (nr - 1)).foldl (fun x j => rnd .std true false x (irk (j + 1))) (s.xor (irk 0)))
    (irk nr)

end Sys2Proof.Machine
end

