-- ==== Sys2Proof/Machine/Expand.lean ====
section
/-!
DEFINITION. The key schedule (R270 to R277): expansion of a 16-, 24- or 32-byte key into its round keys, and
the inverse schedule.
-/

namespace Sys2Proof.Machine

/-- R270, R275: the round count of a key length, and none for a length that is not 16, 24 or 32. -/
def roundsOfLength (l : Nat) : Option Nat :=
  if l = 16 then some 10 else if l = 24 then some 12 else if l = 32 then some 14 else none

/-- R271: rotate by one byte towards a0. -/
def rotWord (a : Column) : Column := ⟨a.r1, a.r2, a.r3, a.r0⟩

/-- R271: the S-box on each byte. -/
def subWord (a : Column) : Column := a.map sbox

/-- R272: `rc[1] = 0x01` and `rc[n] = double(rc[n-1])`. -/
def rc : Nat → Byte
  | 0 => 0
  | 1 => 0x01
  | n + 2 => double (rc (n + 1))

/-- R272: the round constant enters the first byte of the word only. -/
def rcon (n : Nat) : Column := ⟨rc n, 0, 0, 0⟩

/-- R273: the word w[i] that follows the words `w` = w[0 .. i-1], for a key of nk words. -/
def nextWord (nk : Nat) (w : List Column) : Column :=
  let i := w.length
  let prev := w.getD (i - 1) default
  let t :=
    if i % nk = 0 then (subWord (rotWord prev)).xor (rcon (i / nk))
    else if nk = 8 ∧ i % nk = 4 then subWord prev
    else prev
  (w.getD (i - nk) default).xor t

/-- R273: `m` more words. -/
def extendWords (nk : Nat) : Nat → List Column → List Column
  | 0, w => w
  | m + 1, w => extendWords nk m (w ++ [nextWord nk w])

/-- R273, first loop: word i of the key is key[4i .. 4i+3]. -/
def keyWords (key : List Byte) : List Column :=
  (List.range (key.length / 4)).map fun i =>
    ⟨key.getD (4 * i) 0, key.getD (4 * i + 1) 0, key.getD (4 * i + 2) 0, key.getD (4 * i + 3) 0⟩

/-- R273, last loop: rk[j] is w[4j] | w[4j+1] | w[4j+2] | w[4j+3], word 4j first. -/
def roundKeysOf (nr : Nat) (w : List Column) : List Block :=
  (List.range (nr + 1)).map fun j =>
    ⟨w.getD (4 * j) default, w.getD (4 * j + 1) default, w.getD (4 * j + 2) default, w.getD (4 * j + 3) default⟩

/-- R273: the schedule of a key whose length gives nr rounds. -/
def expand (nr : Nat) (key : List Byte) : Slot where
  rounds := nr
  rk := roundKeysOf nr (extendWords (key.length / 4) (4 * (nr + 1) - key.length / 4) (keyWords key))

/-- RK[j] of a slot. Every command checks j against ROUNDS first (R425); the default is never read from a slot
that keeps the slot invariant (R35). -/
def Slot.key (q : Slot) (j : Nat) : Block := q.rk.getD j Block.zero

/-- R276: the keys in reverse order, every interior one inverse-mixed. -/
def invSchedule (q : Slot) : Slot where
  rounds := q.rounds
  rk := (List.range (q.rounds + 1)).map fun j =>
    if j = 0 then q.key q.rounds
    else if j = q.rounds then q.key 0
    else imix (q.key (q.rounds - j))

end Sys2Proof.Machine
end

