-- ==== Sys2Proof/Machine/Flags.lean ====
section
/-!
DEFINITION. The control and status registers: the fields of CAPS (R37) and STATUS (R38), the cause codes
(R420), the path labels (R354), and the path a command takes.
-/

namespace Sys2Proof.Machine

/-! ## Causes (R420, R421) -/

/-- The causes of R420, NONE apart. -/
inductive Cause where
  | invalidKeyLength
  | illegalCommand
  | laneOutOfRange
  | roundIndexOutOfRange
  | roundCountMismatch
  | scheduleEmpty
deriving DecidableEq, Repr

/-- R420: the cause codes. -/
def Cause.code : Cause → BitVec 8
  | .invalidKeyLength => 0x01
  | .illegalCommand => 0x10
  | .laneOutOfRange => 0x11
  | .roundIndexOutOfRange => 0x12
  | .roundCountMismatch => 0x13
  | .scheduleEmpty => 0x14

/-- R421: INVALID_KEY_LENGTH is the only Error; every other cause is a Fatal. -/
def Cause.isFatal : Cause → Bool
  | .invalidKeyLength => false
  | .illegalCommand => true
  | .laneOutOfRange => true
  | .roundIndexOutOfRange => true
  | .roundCountMismatch => true
  | .scheduleEmpty => true

/-! ## STATUS (R38) -/

/-- The path labels of STATUS.PATH: software, single-block hardware, N-way hardware (R38, R354). -/
inductive Path where
  | sw
  | hw1
  | hwn
deriving DecidableEq, Repr

/-- R38: 0 SW, 1 HW1, 2 HWN; 3 is never written. -/
def Path.code : Path → BitVec 2
  | .sw => 0
  | .hw1 => 1
  | .hwn => 2

/-- R38: STATUS from its fields; the reserved bits 7:2 and 31:18 read as 0. -/
def statusWord (err fatal : Bool) (cause : BitVec 8) (path : BitVec 2) : Word :=
  (0 : BitVec 14) ++ path ++ cause ++ (0 : BitVec 6) ++ BitVec.ofBool fatal ++ BitVec.ofBool err

/-- STATUS.ERR, bit 0. -/
def errBit (status : Word) : Bool := status.getLsbD 0

/-- STATUS.FATAL, bit 1. -/
def fatalBit (status : Word) : Bool := status.getLsbD 1

/-- STATUS.CAUSE, bits 15:8. -/
def causeField (status : Word) : BitVec 8 := status.extractLsb' 8 8

/-- STATUS.PATH, bits 17:16. -/
def pathField (status : Word) : BitVec 2 := status.extractLsb' 16 2

/-- R41: the engine is HALTED exactly when STATUS.FATAL = 1. -/
def halted (s : State) : Bool := fatalBit s.status

/-! ## CAPS (R37) -/

/-- R350: the value the latch writes: INIT = 1 and the probe in bits 4:1; bits 31:5 are 0. -/
def capsWord (p : Probe) : Word :=
  (0 : BitVec 27) ++ BitVec.ofBool p.vw4 ++ BitVec.ofBool p.vw2 ++ BitVec.ofBool p.hwn ++ BitVec.ofBool p.hw1 ++
    BitVec.ofBool true

/-- CAPS.INIT, bit 0. -/
def capsInit (caps : Word) : Bool := caps.getLsbD 0

/-- CAPS.HW1, bit 1. -/
def capsHw1 (caps : Word) : Bool := caps.getLsbD 1

/-- CAPS.HWN, bit 2. -/
def capsHwn (caps : Word) : Bool := caps.getLsbD 2

/-- CAPS.VW2, bit 3. -/
def capsVw2 (caps : Word) : Bool := caps.getLsbD 3

/-- CAPS.VW4, bit 4. -/
def capsVw4 (caps : Word) : Bool := caps.getLsbD 4

/-! ## The path and the queries (R354, R361, R362) -/

/-- R354: the N-way path exists for a lane count when HWN and the width flag of exactly that count are set. -/
def nWay (caps : Word) (n : LaneCount) : Bool :=
  capsHwn caps &&
    match n with
    | .one => false
    | .two => capsVw2 caps
    | .four => capsVw4 caps

/-- R354: the path of a command, from CAPS as latched and HW_ELIGIBLE. -/
def pathOf (i : Instr) (s : State) : Path :=
  match i.laneCount? with
  | none => .sw
  | some n =>
    if s.config.hwEligible.contains i.mnemonic then
      if nWay s.caps n then .hwn
      else if capsHw1 s.caps then .hw1
      else .sw
    else .sw

/-- R361: `zext_32(CAPS.HW1 or CAPS.HWN)`. -/
def hwAvailable (caps : Word) : Word := if capsHw1 caps || capsHwn caps then 1 else 0

/-- R362: the preferred lane width. -/
def preferredLanes (caps : Word) : Word :=
  if capsHwn caps && capsVw4 caps then 4
  else if capsHwn caps && capsVw2 caps then 2
  else 1

end Sys2Proof.Machine
end

