-- ==== Sys2Proof/Machine/Operands.lean ====
section
/-!
DEFINITION. Every operand form of the commands: the lanes of a datapath command (R152), the key register or
slot of a lane (R154), which operands have been written (R156, R157), and the key bytes of KEYEXP (R280).
-/

namespace Sys2Proof

/-- R103: the number of lanes. -/
def LaneCount.count : LaneCount → Nat
  | .one => 1
  | .two => 2
  | .four => 4

/-- R103: the round count a variant expects; none is no check. -/
def Variant.expected : Variant → Option Nat
  | .any => none
  | .aes128 => some 10
  | .aes192 => some 12
  | .aes256 => some 14

/-- R154: with B = 1 every lane uses register or slot K, with B = 0 lane i uses register or slot i. -/
def KeySel.index (key : KeySel) (i : Lane) : Lane :=
  match key with
  | .broadcast k => k
  | .perLane => i

namespace Machine

/-- R152: `SL mod n = 0`. -/
def laneAligned (n : LaneCount) (sl : Lane) : Bool := sl.val % n.count == 0

/-- Lane i is one of SL, SL + 1, ..., SL + n - 1 (R152). -/
def inLanes (n : LaneCount) (sl i : Lane) : Bool := decide (sl.val ≤ i.val) && decide (i.val < sl.val + n.count)

/-- R152: the lanes of a command, ascending. -/
def lanes (n : LaneCount) (sl : Lane) : List Lane := Quad.indices.filter (inLanes n sl)

/-- R156: the state lanes of a datapath command have all been written. -/
def lanesReady (n : LaneCount) (sl : Lane) (s : State) : Bool := (lanes n sl).all fun i => s.wst.get i

/-- R156: the key registers the lanes of a class TK command use have all been written. -/
def keysReady (n : LaneCount) (sl : Lane) (key : KeySel) (s : State) : Bool :=
  (lanes n sl).all fun i => s.wkr.get (key.index i)

/-- R154: the key register of lane i. -/
def keyReg (key : KeySel) (s : State) (i : Lane) : Block := s.kr.get (key.index i)

/-- R154: the slot of lane i. -/
def keySlot (key : KeySel) (s : State) (i : Lane) : Slot := s.ks.get (key.index i)

/-- R280: `KEYIN[0 .. L-1]`. -/
def keyBytes (l : Nat) (s : State) : List Byte := s.keyin.toList.take l

/-- R280: every byte of `KEYIN[0 .. L-1]` has been written. -/
def keyBytesReady (l : Nat) (s : State) : Bool := (s.wki.toList.take l).all id

/-! ## The commands' own checks, in the order of R426 -/

/-- R426 item 4, for a datapath command: the lane start. -/
def checkLanes (n : LaneCount) (sl : Lane) : Option Cause :=
  if laneAligned n sl then none else some .laneOutOfRange

/-- R426 item 5: some lane's slot is empty. -/
def checkEmpty (n : LaneCount) (sl : Lane) (key : KeySel) (s : State) : Option Cause :=
  if (lanes n sl).any fun i => (keySlot key s i).rounds == 0 then some .scheduleEmpty else none

/-- R426 item 6: V names a variant and some lane's schedule has another round count (R330). -/
def checkVariant (n : LaneCount) (sl : Lane) (key : KeySel) (v : Variant) (s : State) : Option Cause :=
  match v.expected with
  | none => none
  | some nr =>
    if (lanes n sl).any fun i => (keySlot key s i).rounds != nr then some .roundCountMismatch else none

/-- R426 item 7: some lane's last key index `RI + N - 1` exceeds its ROUNDS (R314). -/
def checkIndex (n : LaneCount) (sl : Lane) (key : KeySel) (ri cnt : Nat) (s : State) : Option Cause :=
  if (lanes n sl).any fun i => decide ((keySlot key s i).rounds < ri + cnt - 1) then some .roundIndexOutOfRange
  else none

end Machine

end Sys2Proof
end

