-- ==== Sys2Proof/Machine/Ops.lean ====
section
/-!
DEFINITION. The operations every command is made of: named updates of the state, the capability latch (R350),
raising an Error or a Fatal (R423, R424), completion (R159), RESET (R470), and `execute`, the one shape of
R150 that every command follows.

There is no memory operation: the engine has no memory and no address space (R70).
-/

namespace Sys2Proof.Machine

/-- The outcome of a step or a command. -/
abbrev Result := Host.Outcome State Fault Refusal

/-! ## Named updates -/

/-- STATUS replaced. -/
def State.setStatus (s : State) (v : Word) : State := { s with status := v }

/-- FCMD replaced. -/
def State.setFcmd (s : State) (v : Word) : State := { s with fcmd := v }

/-- RES replaced. -/
def State.setRes (s : State) (v : Word) : State := { s with res := v }

/-- CAPS replaced. -/
def State.setCaps (s : State) (v : Word) : State := { s with caps := v }

/-- The reply of the current host-port operation. -/
def State.setReply (s : State) (r : Reply) : State := { s with reply := r }

/-- `ST[i] <- v` for lane i, setting its written tag (R10, R32). -/
def State.writeSt (s : State) (i : Lane) (v : Block) : State :=
  { s with st := s.st.set i v, wst := s.wst.set i true }

/-- `KR[i] <- v` for lane i, setting its written tag (R10, R32). -/
def State.writeKr (s : State) (i : Lane) (v : Block) : State :=
  { s with kr := s.kr.set i v, wkr := s.wkr.set i true }

/-- A slot is written only as a whole (R34, R281). -/
def State.writeSlot (s : State) (k : Lane) (q : Slot) : State := { s with ks := s.ks.set k q }

/-- `KEYIN[j] <- b[j]` for j below the length of b, setting their tags; the other bytes are unchanged (R89). -/
def State.writeKeyin (s : State) (b : List Byte) : State :=
  { s with
    keyin := s.keyin.mapIdx fun j old => b.getD j old
    wki := s.wki.mapIdx fun j old => decide (j < b.length) || old }

/-- The commit of a datapath command (R158): the lanes of the command take their results together, the other
lanes are unchanged. -/
def State.commitLanes (s : State) (n : LaneCount) (sl : Lane) (f : Lane → Block) : State :=
  { s with
    st := Quad.ofFn fun i => if inLanes n sl i then f i else s.st.get i
    wst := Quad.ofFn fun i => inLanes n sl i || s.wst.get i }

/-! ## The capability latch, faults, completion, RESET -/

/-- R350: the first access to the capability flags copies PROBE into CAPS and sets INIT; every later one does
nothing. -/
def latch (s : State) : State := if capsInit s.caps then s else s.setCaps (capsWord s.config.probe)

/-- Taking an exception: `raise Error(c)` (R423) writes STATUS only; `raise Fatal(c)` (R424) writes STATUS and
records the command word in FCMD, and the engine is HALTED. Nothing else changes and no control is
transferred (R429, R430). There is no return: after an Error the host issues the next command, after a Fatal
only RESET is left (R431). -/
def raise (c : Cause) (cw : Word) (s : State) : State :=
  if c.isFatal then (s.setStatus (statusWord false true c.code Path.sw.code)).setFcmd cw
  else s.setStatus (statusWord true false c.code Path.sw.code)

/-- R93: the contract violation of a host-port operation, a Fatal with FCMD = 0. -/
def hostFatal (s : State) : State := raise .laneOutOfRange 0 s

/-- R159: STATUS on completion. -/
def complete (p : Path) (s : State) : State := s.setStatus (statusWord false false 0x00 p.code)

/-- What the storage that carries written tags holds. -/
def State.contents (s : State) : Contents := ⟨s.st, s.kr, s.keyin⟩

/-- RESET (R470): every state element at its reset value; what ST, KR and KEYIN hold is the free value of R471 (log
entry 2). The configuration is the instance's (R45) and the operations still to come are the hosts', so neither is the
engine's to reset. -/
def resetEngine (s : State) : State :=
  let left := Config.afterReset s.resets s.contents
  { State.reset with
    st := left.st
    kr := left.kr
    keyin := left.keyin
    config := s.config
    port := s.port
    resets := s.resets + 1 }

/-! ## Execution of a command -/

/-- R150, for a word that has decoded to `i`: latch, then the command's checks in the order of R426, then its
operand reads (an unwritten one is the model fault, after which nothing is committed, R157), then its results, computed
from the pre-state and committed together (R158), then STATUS (R159). `check` answers the first check that fails;
`ready` tells whether every operand has been written; `effect` is the commit. -/
def execute (i : Instr) (check : State → Option Cause) (ready : State → Bool) (effect : State → State)
    (s : State) : Result :=
  let t := latch s
  match check t with
  | some c => .next (raise c (encode i) t)
  | none => if ready t then .next (complete (pathOf i t) (effect t)) else .fault .unwritten

/-- A class T command: each lane goes through `f` (R153). -/
def transformLanes (i : Instr) (n : LaneCount) (sl : Lane) (f : Block → Block) (s : State) : Result :=
  execute i (fun _ => checkLanes n sl) (lanesReady n sl)
    (fun t => t.commitLanes n sl fun l => f (t.st.get l)) s

/-- A class TK command: each lane goes through `f` with its key register (R154). -/
def keyedLanes (i : Instr) (n : LaneCount) (sl : Lane) (key : KeySel) (f : Block → Block → Block) (s : State) :
    Result :=
  execute i (fun _ => checkLanes n sl) (fun t => lanesReady n sl t && keysReady n sl key t)
    (fun t => t.commitLanes n sl fun l => f (t.st.get l) (keyReg key t l)) s

/-- A class BK command: the checks of R314, then N rounds of each lane with consecutive keys of its slot,
from index RI on (R311). -/
def batchedKeyedLanes (i : Instr) (n : LaneCount) (sl : Lane) (key : KeySel) (ri cnt : Nat) (ord : Ord)
    (inv fin : Bool) (s : State) : Result :=
  execute i
    (fun t => checkLanes n sl <|> checkEmpty n sl key t <|> checkIndex n sl key ri cnt t)
    (lanesReady n sl)
    (fun t => t.commitLanes n sl fun l =>
      batch ord inv fin cnt (t.st.get l) fun j => (keySlot key t l).key (ri + j)) s

/-- A class BN command: N no-key rounds of each lane; no slot is looked at (R314). -/
def batchedLanes (i : Instr) (n : LaneCount) (sl : Lane) (cnt : Nat) (inv fin : Bool) (s : State) : Result :=
  execute i (fun _ => checkLanes n sl) (lanesReady n sl)
    (fun t => t.commitLanes n sl fun l => batch .nk inv fin cnt (t.st.get l) fun _ => Block.zero) s

/-- A class C command: the checks of R330, then `f` on each lane with the round count and keys of its slot. -/
def cipherLanes (i : Instr) (n : LaneCount) (sl : Lane) (key : KeySel) (v : Variant)
    (f : Nat → (Nat → Block) → Block → Block) (s : State) : Result :=
  execute i
    (fun t => checkLanes n sl <|> checkEmpty n sl key t <|> checkVariant n sl key v t)
    (lanesReady n sl)
    (fun t => t.commitLanes n sl fun l => f (keySlot key t l).rounds (keySlot key t l).key (t.st.get l)) s

/-- A class SYS command: no check, no operand (45_dispatch.md section 3). -/
def systemCommand (i : Instr) (effect : State → State) (s : State) : Result :=
  execute i (fun _ => none) (fun _ => true) effect s

end Sys2Proof.Machine
end

