-- ==== Sys2Proof/Machine/Transforms.lean ====
section
/-!
DEFINITION. The seven transform commands of 41_transforms.md: R190 to R196.
-/

namespace Sys2Proof.Machine

/-- R190 SUBBYTES: substitute every byte of each lane. -/
def execSubbytes (n : LaneCount) (sl : Lane) (s : State) : Result :=
  transformLanes (.subbytes n sl) n sl sub s

/-- R191 INVSUBBYTES: inverse-substitute every byte of each lane. -/
def execInvsubbytes (n : LaneCount) (sl : Lane) (s : State) : Result :=
  transformLanes (.invsubbytes n sl) n sl isub s

/-- R192 SHIFTROWS: rotate the rows of each lane left. -/
def execShiftrows (n : LaneCount) (sl : Lane) (s : State) : Result :=
  transformLanes (.shiftrows n sl) n sl shr s

/-- R193 INVSHIFTROWS: rotate the rows of each lane right. -/
def execInvshiftrows (n : LaneCount) (sl : Lane) (s : State) : Result :=
  transformLanes (.invshiftrows n sl) n sl ishr s

/-- R194 MIXCOLUMNS: mix the columns of each lane. -/
def execMixcolumns (n : LaneCount) (sl : Lane) (s : State) : Result :=
  transformLanes (.mixcolumns n sl) n sl mix s

/-- R195 INVMIXCOLUMNS: inverse-mix the columns of each lane. -/
def execInvmixcolumns (n : LaneCount) (sl : Lane) (s : State) : Result :=
  transformLanes (.invmixcolumns n sl) n sl imix s

/-- R196 ADDROUNDKEY: XOR a round key into each lane. -/
def execAddroundkey (n : LaneCount) (sl : Lane) (key : KeySel) (s : State) : Result :=
  keyedLanes (.addroundkey n sl key) n sl key ark s

end Sys2Proof.Machine
end

