-- ==== Sys2Proof/Machine/Rounds.lean ====
section
/-!
DEFINITION. The twelve single-round commands of 42_rounds.md: R240 to R251. A no-key round ignores its key argument (R231).
-/

namespace Sys2Proof.Machine

/-- R240 ROUND: standard forward round. -/
def execRound (n : LaneCount) (sl : Lane) (key : KeySel) (s : State) : Result :=
  keyedLanes (.round n sl key) n sl key (rnd .std false false) s

/-- R241 FINALROUND: standard forward final round. -/
def execFinalround (n : LaneCount) (sl : Lane) (key : KeySel) (s : State) : Result :=
  keyedLanes (.finalround n sl key) n sl key (rnd .std false true) s

/-- R242 INVROUND: standard inverse round. -/
def execInvround (n : LaneCount) (sl : Lane) (key : KeySel) (s : State) : Result :=
  keyedLanes (.invround n sl key) n sl key (rnd .std true false) s

/-- R243 INVFINALROUND: standard inverse final round. -/
def execInvfinalround (n : LaneCount) (sl : Lane) (key : KeySel) (s : State) : Result :=
  keyedLanes (.invfinalround n sl key) n sl key (rnd .std true true) s

/-- R244 ROUNDKF: key-first forward round. -/
def execRoundkf (n : LaneCount) (sl : Lane) (key : KeySel) (s : State) : Result :=
  keyedLanes (.roundkf n sl key) n sl key (rnd .kf false false) s

/-- R245 FINALROUNDKF: key-first forward final round. -/
def execFinalroundkf (n : LaneCount) (sl : Lane) (key : KeySel) (s : State) : Result :=
  keyedLanes (.finalroundkf n sl key) n sl key (rnd .kf false true) s

/-- R246 INVROUNDKF: key-first inverse round. -/
def execInvroundkf (n : LaneCount) (sl : Lane) (key : KeySel) (s : State) : Result :=
  keyedLanes (.invroundkf n sl key) n sl key (rnd .kf true false) s

/-- R247 INVFINALROUNDKF: key-first inverse final round. -/
def execInvfinalroundkf (n : LaneCount) (sl : Lane) (key : KeySel) (s : State) : Result :=
  keyedLanes (.invfinalroundkf n sl key) n sl key (rnd .kf true true) s

/-- R248 ROUNDNK: no-key forward round. -/
def execRoundnk (n : LaneCount) (sl : Lane) (s : State) : Result :=
  transformLanes (.roundnk n sl) n sl (fun x => rnd .nk false false x Block.zero) s

/-- R249 FINALROUNDNK: no-key forward final round. -/
def execFinalroundnk (n : LaneCount) (sl : Lane) (s : State) : Result :=
  transformLanes (.finalroundnk n sl) n sl (fun x => rnd .nk false true x Block.zero) s

/-- R250 INVROUNDNK: no-key inverse round. -/
def execInvroundnk (n : LaneCount) (sl : Lane) (s : State) : Result :=
  transformLanes (.invroundnk n sl) n sl (fun x => rnd .nk true false x Block.zero) s

/-- R251 INVFINALROUNDNK: no-key inverse final round. -/
def execInvfinalroundnk (n : LaneCount) (sl : Lane) (s : State) : Result :=
  transformLanes (.invfinalroundnk n sl) n sl (fun x => rnd .nk true true x Block.zero) s

end Sys2Proof.Machine
end

