-- ==== Sys2Proof/Machine/Batched.lean ====
section
/-!
DEFINITION. The twelve batched commands of 44_batched.md: R318 to R329.
-/

namespace Sys2Proof.Machine

/-- R318 ROUNDS: N standard forward rounds. -/
def execRounds (n : LaneCount) (sl : Lane) (key : KeySel) (ri cnt : Nat) (s : State) : Result :=
  batchedKeyedLanes (.rounds n sl key ri cnt) n sl key ri cnt .std false false s

/-- R319 ROUNDSFIN: N standard forward rounds, the last final. -/
def execRoundsfin (n : LaneCount) (sl : Lane) (key : KeySel) (ri cnt : Nat) (s : State) : Result :=
  batchedKeyedLanes (.roundsfin n sl key ri cnt) n sl key ri cnt .std false true s

/-- R320 INVROUNDS: N standard inverse rounds. -/
def execInvrounds (n : LaneCount) (sl : Lane) (key : KeySel) (ri cnt : Nat) (s : State) : Result :=
  batchedKeyedLanes (.invrounds n sl key ri cnt) n sl key ri cnt .std true false s

/-- R321 INVROUNDSFIN: N standard inverse rounds, the last final. -/
def execInvroundsfin (n : LaneCount) (sl : Lane) (key : KeySel) (ri cnt : Nat) (s : State) : Result :=
  batchedKeyedLanes (.invroundsfin n sl key ri cnt) n sl key ri cnt .std true true s

/-- R322 ROUNDSKF: N key-first forward rounds. -/
def execRoundskf (n : LaneCount) (sl : Lane) (key : KeySel) (ri cnt : Nat) (s : State) : Result :=
  batchedKeyedLanes (.roundskf n sl key ri cnt) n sl key ri cnt .kf false false s

/-- R323 ROUNDSKFFIN: N key-first forward rounds, the last final. -/
def execRoundskffin (n : LaneCount) (sl : Lane) (key : KeySel) (ri cnt : Nat) (s : State) : Result :=
  batchedKeyedLanes (.roundskffin n sl key ri cnt) n sl key ri cnt .kf false true s

/-- R324 INVROUNDSKF: N key-first inverse rounds. -/
def execInvroundskf (n : LaneCount) (sl : Lane) (key : KeySel) (ri cnt : Nat) (s : State) : Result :=
  batchedKeyedLanes (.invroundskf n sl key ri cnt) n sl key ri cnt .kf true false s

/-- R325 INVROUNDSKFFIN: N key-first inverse rounds, the last final. -/
def execInvroundskffin (n : LaneCount) (sl : Lane) (key : KeySel) (ri cnt : Nat) (s : State) : Result :=
  batchedKeyedLanes (.invroundskffin n sl key ri cnt) n sl key ri cnt .kf true true s

/-- R326 ROUNDSNK: N no-key forward rounds. -/
def execRoundsnk (n : LaneCount) (sl : Lane) (cnt : Nat) (s : State) : Result :=
  batchedLanes (.roundsnk n sl cnt) n sl cnt false false s

/-- R327 ROUNDSNKFIN: N no-key forward rounds, the last final. -/
def execRoundsnkfin (n : LaneCount) (sl : Lane) (cnt : Nat) (s : State) : Result :=
  batchedLanes (.roundsnkfin n sl cnt) n sl cnt false true s

/-- R328 INVROUNDSNK: N no-key inverse rounds. -/
def execInvroundsnk (n : LaneCount) (sl : Lane) (cnt : Nat) (s : State) : Result :=
  batchedLanes (.invroundsnk n sl cnt) n sl cnt true false s

/-- R329 INVROUNDSNKFIN: N no-key inverse rounds, the last final. -/
def execInvroundsnkfin (n : LaneCount) (sl : Lane) (cnt : Nat) (s : State) : Result :=
  batchedLanes (.invroundsnkfin n sl cnt) n sl cnt true true s

end Sys2Proof.Machine
end

