-- ==== Sys2Proof/Machine/Cipher.lean ====
section
/-!
DEFINITION. The whole-cipher commands of 44_batched.md: R330 and R331.
-/

namespace Sys2Proof.Machine

/-- R330 ENCRYPT: the whole AES cipher under the schedule in a slot. -/
def execEncrypt (n : LaneCount) (sl : Lane) (key : KeySel) (v : Variant) (s : State) : Result :=
  cipherLanes (.encrypt n sl key v) n sl key v encryptBlock s

/-- R331 DECRYPT: the equivalent inverse cipher under the (inverse) schedule in a slot. The slot does not record
which kind of schedule it holds. -/
def execDecrypt (n : LaneCount) (sl : Lane) (key : KeySel) (v : Variant) (s : State) : Result :=
  cipherLanes (.decrypt n sl key v) n sl key v decryptBlock s

end Sys2Proof.Machine
end

