-- ==== Sys2Proof/Machine/KeySchedule.lean ====
section
/-!
DEFINITION. The key-schedule commands of 43_key_schedule.md: R280, R282 and R283.
-/

namespace Sys2Proof.Machine

/-- R280 KEYEXP: expand the key in KEYIN[0..L-1] into slot K. A length that is not 16, 24 or 32 is the one
Error, before any read of a key byte (R275). -/
def execKeyexp (k : Lane) (l : Nat) (s : State) : Result :=
  execute (.keyexp k l)
    (fun _ => if (roundsOfLength l).isSome then none else some .invalidKeyLength)
    (keyBytesReady l)
    (fun t => t.writeSlot k (expand ((roundsOfLength l).getD 0) (keyBytes l t))) s

/-- R282 KEYINV: derive the inverse schedule of slot SS into slot K; K = SS is allowed. -/
def execKeyinv (k ss : Lane) (s : State) : Result :=
  execute (.keyinv k ss)
    (fun t => if (t.ks.get ss).rounds = 0 then some .scheduleEmpty else none)
    (fun _ => true)
    (fun t => t.writeSlot k (invSchedule (t.ks.get ss))) s

/-- R283 RKREAD: fetch round key RI of slot K into lane DL of KR or ST. -/
def execRkread (dst : RegFile) (dl k : Lane) (ri : Nat) (s : State) : Result :=
  execute (.rkread dst dl k ri)
    (fun t =>
      if (t.ks.get k).rounds = 0 then some .scheduleEmpty
      else if (t.ks.get k).rounds < ri then some .roundIndexOutOfRange
      else none)
    (fun _ => true)
    (fun t =>
      match dst with
      | .kr => t.writeKr dl ((t.ks.get k).key ri)
      | .st => t.writeSt dl ((t.ks.get k).key ri)) s

end Sys2Proof.Machine
end

