-- ==== Sys2Proof/Machine/System.lean ====
section
/-!
DEFINITION. The system commands of 45_dispatch.md: R360 to R362.
-/

namespace Sys2Proof.Machine

/-- R360 CAPINIT: nothing beyond the latch that every issued command performs; also the no-operation (R112). -/
def execCapinit (s : State) : Result := systemCommand .capinit id s

/-- R361 QHWAVAIL: `RES <- zext_32(CAPS.HW1 or CAPS.HWN)`. -/
def execQhwavail (s : State) : Result :=
  systemCommand .qhwavail (fun t => t.setRes (hwAvailable t.caps)) s

/-- R362 QLANES: RES is the preferred lane width, 1, 2 or 4. -/
def execQlanes (s : State) : Result :=
  systemCommand .qlanes (fun t => t.setRes (preferredLanes t.caps)) s

end Sys2Proof.Machine
end

