-- ==== Sys2Proof/Machine/Dispatch.lean ====
section
/-! DEFINITION. What each command does: one arm per constructor of Instr, each one call of its meaning. -/

namespace Sys2Proof.Machine

/-- The execution of a decoded command (R150). -/
def exec (i : Instr) (s : State) : Host.Outcome State Fault Refusal :=
  match i with
  | .subbytes n sl => Sys2Proof.Machine.execSubbytes n sl s
  | .invsubbytes n sl => Sys2Proof.Machine.execInvsubbytes n sl s
  | .shiftrows n sl => Sys2Proof.Machine.execShiftrows n sl s
  | .invshiftrows n sl => Sys2Proof.Machine.execInvshiftrows n sl s
  | .mixcolumns n sl => Sys2Proof.Machine.execMixcolumns n sl s
  | .invmixcolumns n sl => Sys2Proof.Machine.execInvmixcolumns n sl s
  | .addroundkey n sl key => Sys2Proof.Machine.execAddroundkey n sl key s
  | .round n sl key => Sys2Proof.Machine.execRound n sl key s
  | .finalround n sl key => Sys2Proof.Machine.execFinalround n sl key s
  | .invround n sl key => Sys2Proof.Machine.execInvround n sl key s
  | .invfinalround n sl key => Sys2Proof.Machine.execInvfinalround n sl key s
  | .roundkf n sl key => Sys2Proof.Machine.execRoundkf n sl key s
  | .finalroundkf n sl key => Sys2Proof.Machine.execFinalroundkf n sl key s
  | .invroundkf n sl key => Sys2Proof.Machine.execInvroundkf n sl key s
  | .invfinalroundkf n sl key => Sys2Proof.Machine.execInvfinalroundkf n sl key s
  | .roundnk n sl => Sys2Proof.Machine.execRoundnk n sl s
  | .finalroundnk n sl => Sys2Proof.Machine.execFinalroundnk n sl s
  | .invroundnk n sl => Sys2Proof.Machine.execInvroundnk n sl s
  | .invfinalroundnk n sl => Sys2Proof.Machine.execInvfinalroundnk n sl s
  | .rounds n sl key ri cnt => Sys2Proof.Machine.execRounds n sl key ri cnt s
  | .roundsfin n sl key ri cnt => Sys2Proof.Machine.execRoundsfin n sl key ri cnt s
  | .invrounds n sl key ri cnt => Sys2Proof.Machine.execInvrounds n sl key ri cnt s
  | .invroundsfin n sl key ri cnt => Sys2Proof.Machine.execInvroundsfin n sl key ri cnt s
  | .roundskf n sl key ri cnt => Sys2Proof.Machine.execRoundskf n sl key ri cnt s
  | .roundskffin n sl key ri cnt => Sys2Proof.Machine.execRoundskffin n sl key ri cnt s
  | .invroundskf n sl key ri cnt => Sys2Proof.Machine.execInvroundskf n sl key ri cnt s
  | .invroundskffin n sl key ri cnt => Sys2Proof.Machine.execInvroundskffin n sl key ri cnt s
  | .roundsnk n sl cnt => Sys2Proof.Machine.execRoundsnk n sl cnt s
  | .roundsnkfin n sl cnt => Sys2Proof.Machine.execRoundsnkfin n sl cnt s
  | .invroundsnk n sl cnt => Sys2Proof.Machine.execInvroundsnk n sl cnt s
  | .invroundsnkfin n sl cnt => Sys2Proof.Machine.execInvroundsnkfin n sl cnt s
  | .encrypt n sl key v => Sys2Proof.Machine.execEncrypt n sl key v s
  | .decrypt n sl key v => Sys2Proof.Machine.execDecrypt n sl key v s
  | .keyexp k l => Sys2Proof.Machine.execKeyexp k l s
  | .keyinv k ss => Sys2Proof.Machine.execKeyinv k ss s
  | .rkread dst dl k ri => Sys2Proof.Machine.execRkread dst dl k ri s
  | .capinit => Sys2Proof.Machine.execCapinit s
  | .qhwavail => Sys2Proof.Machine.execQhwavail s
  | .qlanes => Sys2Proof.Machine.execQlanes s

end Sys2Proof.Machine
end

