-- ==== Sys2Proof/Machine/Port.lean ====
section
/-!
DEFINITION. The host port (20_memory.md section 4): what each host-port operation does, which are accepted in
HALTED, and how the next one is taken. An operation is one atomic step (R75), in the order the port accepts
them (R78).
-/

namespace Sys2Proof.Machine

/-- R427: in HALTED only RESET, READ_STATUS and READ_FCMD are accepted. -/
def acceptedInHalted : HostOp → Bool
  | .reset => true
  | .readStatus => true
  | .readFcmd => true
  | .writeSt _ _ => false
  | .readSt _ => false
  | .writeKr _ _ => false
  | .writeKeyin _ => false
  | .readKr _ => false
  | .readCaps => false
  | .readRes => false
  | .issue _ => false

/-- R93: a lane index above 3 is a contract violation; else the access goes on with the lane. -/
def withPortLane (i : Nat) (s : State) (access : Lane → Result) : Result :=
  if h : i < 4 then access ⟨i, h⟩ else .next (hostFatal s)

/-- READ_ST and READ_KR: the reply is the lane; an unwritten lane is the model fault (R87, R90). -/
def readLane (file : Quad Block) (tags : Quad Bool) (i : Lane) (s : State) : Result :=
  if tags.get i then .next (s.setReply (.block (file.get i))) else .fault .unwritten

/-- R94, R150: a word that does not decode raises Fatal(ILLEGAL_COMMAND), after the latch (R351). -/
def issueWord (cw : Word) (s : State) : Result :=
  match decode cw with
  | .error _ => .next (raise .illegalCommand cw (latch s))
  | .ok i => exec i s

/-- The effect of an accepted operation (R86 to R95). -/
def perform (op : HostOp) (s : State) : Result :=
  match op with
  | .writeSt i v => withPortLane i s fun l => .next (s.writeSt l v)
  | .readSt i => withPortLane i s fun l => readLane s.st s.wst l s
  | .writeKr i v => withPortLane i s fun l => .next (s.writeKr l v)
  | .writeKeyin b => if b.length ≤ 32 then .next (s.writeKeyin b) else .next (hostFatal s)
  | .readKr i => withPortLane i s fun l => readLane s.kr s.wkr l s
  | .readCaps => .next ((latch s).setReply (.word (latch s).caps))
  | .readStatus => .next (s.setReply (.word s.status))
  | .readFcmd => .next (s.setReply (.word s.fcmd))
  | .readRes => .next (s.setReply (.word s.res))
  | .issue cw => issueWord cw s
  | .reset => .next (resetEngine s)

/-- R96, R427: an operation that HALTED does not accept is refused and gets no step. -/
def present (op : HostOp) (s : State) : Result :=
  if halted s && !acceptedInHalted op then .refused .halted else perform op s

/-- The port takes the next operation off the hosts' list; the reply starts as none. With none pending the
engine performs nothing until one arrives (R77, R472). -/
def takeNext (s : State) : Result :=
  match s.port with
  | [] => .next s
  | op :: rest => present op { s with port := rest, reply := .none }

/-- The host presents the command word `cw` as its very next operation. -/
def State.presentWord (s : State) (cw : Word) : State := { s with port := .issue cw :: s.port }

end Sys2Proof.Machine
end

