-- ==== Sys2Proof/Machine/Step.lean ====
section
/-!
DEFINITION. One step of the machine: one host-port operation, whole and atomic (R75, R78, R162).
-/

namespace Sys2Proof.Machine

/-- R162: the step function. Its configuration and its host operation are read from the state (log entries 4
and 5). -/
def step (s : State) : Host.Outcome State Fault Refusal := takeNext s

/-- The state in which the next step issues the table word `w` (log entry 6): a command has one word of 32 bits
(R100), and `ISSUE` of it is put before whatever the hosts present next. -/
def State.withFetchWord (s : State) (nbits w : Nat) : State := s.presentWord (BitVec.ofNat 32 (w % 2 ^ nbits))

end Sys2Proof.Machine
end

