-- ==== Sys2Proof/Machine/Asm.lean ====
section
/-!
DEFINITION. The assembler's language (R110 to R113): a line as data, its canonical text, a reader of text, the
assembler with the pseudo-instructions and its rejections, and the disassembler.
-/

namespace Sys2Proof

/-- The name a line begins with: a mnemonic of R104 or a pseudo-instruction of R112. -/
inductive AsmName where
  | command (m : Mnemonic)
  | nop
  | ark
  | aesEnc (v : Variant)
  | aesDec (v : Variant)
deriving DecidableEq, Repr

/-- An operand as R111 writes it; numbers are as read, and the assembler checks their ranges. -/
inductive AsmOperand where
  /-- `s<i>` -/
  | lane (i : Nat)
  /-- `kr<i>` -/
  | keyReg (i : Nat)
  /-- bare `kr` -/
  | keyRegs
  /-- `ks<i>` -/
  | slot (i : Nat)
  /-- bare `ks` -/
  | slots
  /-- `ks<i>@<ri>` -/
  | slotAt (i ri : Nat)
  /-- `ks@<ri>` -/
  | slotsAt (ri : Nat)
  /-- `#<n>` -/
  | count (n : Nat)
  /-- a decimal number -/
  | number (n : Nat)
  /-- `any`, `aes128`, `aes192` or `aes256` -/
  | variant (v : Variant)
deriving DecidableEq, Repr

/-- `MNEMONIC[.L2|.L4] operands` (R110). No suffix is one lane. -/
structure AsmLine where
  name : AsmName
  suffix : LaneCount
  operands : List AsmOperand
deriving DecidableEq, Repr

namespace Asm

/-! ## Lines and instructions -/

/-- An index 0..3 (R111). -/
def laneIndex (i : Nat) : Option Lane := if h : i < 4 then some ⟨i, h⟩ else none

/-- `kr<K>` is B = 1, bare `kr` is B = 0 (R111, class TK). -/
def keyRegSel : AsmOperand → Option KeySel
  | .keyReg i => (laneIndex i).map .broadcast
  | .keyRegs => some .perLane
  | _ => none

/-- `ks<K>` or bare `ks` (R111, class C). -/
def slotSel : AsmOperand → Option KeySel
  | .slot i => (laneIndex i).map .broadcast
  | .slots => some .perLane
  | _ => none

/-- `ks<K>@<RI>` or `ks@<RI>` (R111, class BK). -/
def slotAtSel : AsmOperand → Option (KeySel × Nat)
  | .slotAt i ri => (laneIndex i).map fun k => (.broadcast k, ri)
  | .slotsAt ri => some (.perLane, ri)
  | _ => none

/-- Class T: `s<SL>`. -/
def lineT (ops : List AsmOperand) (mk : Lane → Instr) : Option Instr :=
  match ops with
  | [.lane sl] => (laneIndex sl).map mk
  | _ => none

/-- Class TK: `s<SL>, kr<K>` or `s<SL>, kr`. -/
def lineTK (ops : List AsmOperand) (mk : Lane → KeySel → Instr) : Option Instr :=
  match ops with
  | [.lane sl, key] => (laneIndex sl).bind fun l => (keyRegSel key).map (mk l)
  | _ => none

/-- Class BK: `s<SL>, ks<K>@<RI>, #<N>` or `s<SL>, ks@<RI>, #<N>`. -/
def lineBK (ops : List AsmOperand) (mk : Lane → KeySel → Nat → Nat → Instr) : Option Instr :=
  match ops with
  | [.lane sl, key, .count cnt] => (laneIndex sl).bind fun l => (slotAtSel key).map fun p => mk l p.1 p.2 cnt
  | _ => none

/-- Class BN: `s<SL>, #<N>`. -/
def lineBN (ops : List AsmOperand) (mk : Lane → Nat → Instr) : Option Instr :=
  match ops with
  | [.lane sl, .count cnt] => (laneIndex sl).map fun l => mk l cnt
  | _ => none

/-- Class C: `s<SL>, ks<K>, <v>` or `s<SL>, ks, <v>`. -/
def lineC (ops : List AsmOperand) (mk : Lane → KeySel → Variant → Instr) : Option Instr :=
  match ops with
  | [.lane sl, key, .variant v] => (laneIndex sl).bind fun l => (slotSel key).map fun k => mk l k v
  | _ => none

/-- A suffix on a non-lane command is rejected (R111). -/
def noSuffix (n : LaneCount) (r : Option Instr) : Option Instr := if n = .one then r else none

/-- The instruction of a line whose name is a mnemonic (R111), before the range checks. -/
def commandOf (m : Mnemonic) (n : LaneCount) (ops : List AsmOperand) : Option Instr :=
  match m with
  | .subbytes => lineT ops (.subbytes n)
  | .invsubbytes => lineT ops (.invsubbytes n)
  | .shiftrows => lineT ops (.shiftrows n)
  | .invshiftrows => lineT ops (.invshiftrows n)
  | .mixcolumns => lineT ops (.mixcolumns n)
  | .invmixcolumns => lineT ops (.invmixcolumns n)
  | .addroundkey => lineTK ops (.addroundkey n)
  | .round => lineTK ops (.round n)
  | .finalround => lineTK ops (.finalround n)
  | .invround => lineTK ops (.invround n)
  | .invfinalround => lineTK ops (.invfinalround n)
  | .roundkf => lineTK ops (.roundkf n)
  | .finalroundkf => lineTK ops (.finalroundkf n)
  | .invroundkf => lineTK ops (.invroundkf n)
  | .invfinalroundkf => lineTK ops (.invfinalroundkf n)
  | .roundnk => lineT ops (.roundnk n)
  | .finalroundnk => lineT ops (.finalroundnk n)
  | .invroundnk => lineT ops (.invroundnk n)
  | .invfinalroundnk => lineT ops (.invfinalroundnk n)
  | .rounds => lineBK ops (.rounds n)
  | .roundsfin => lineBK ops (.roundsfin n)
  | .invrounds => lineBK ops (.invrounds n)
  | .invroundsfin => lineBK ops (.invroundsfin n)
  | .roundskf => lineBK ops (.roundskf n)
  | .roundskffin => lineBK ops (.roundskffin n)
  | .invroundskf => lineBK ops (.invroundskf n)
  | .invroundskffin => lineBK ops (.invroundskffin n)
  | .roundsnk => lineBN ops (.roundsnk n)
  | .roundsnkfin => lineBN ops (.roundsnkfin n)
  | .invroundsnk => lineBN ops (.invroundsnk n)
  | .invroundsnkfin => lineBN ops (.invroundsnkfin n)
  | .encrypt => lineC ops (.encrypt n)
  | .decrypt => lineC ops (.decrypt n)
  | .keyexp =>
    noSuffix n <| match ops with
      | [.slot k, .number l] => (laneIndex k).map fun k => .keyexp k l
      | _ => none
  | .keyinv =>
    noSuffix n <| match ops with
      | [.slot k, .slot ss] => (laneIndex k).bind fun k => (laneIndex ss).map fun ss => .keyinv k ss
      | _ => none
  | .rkread =>
    noSuffix n <| match ops with
      | [.keyReg dl, .slotAt k ri] => (laneIndex dl).bind fun dl => (laneIndex k).map fun k => .rkread .kr dl k ri
      | [.lane dl, .slotAt k ri] => (laneIndex dl).bind fun dl => (laneIndex k).map fun k => .rkread .st dl k ri
      | _ => none
  | .capinit => noSuffix n (if ops = [] then some .capinit else none)
  | .qhwavail => noSuffix n (if ops = [] then some .qhwavail else none)
  | .qlanes => noSuffix n (if ops = [] then some .qlanes else none)

/-- The AES-n pseudo-instructions write the variant for the programmer (R112); there is none for `any`. -/
def withVariant (v : Variant) (ops : List AsmOperand) : Option (List AsmOperand) :=
  if v = .any then none
  else match ops with
    | [sl, ks] => some [sl, ks, .variant v]
    | _ => none

/-- R112: each pseudo-instruction stands for exactly one command; a command stands for itself. -/
def expandLine (l : AsmLine) : Option AsmLine :=
  match l.name with
  | .command _ => some l
  | .nop => some { l with name := .command .capinit }
  | .ark => some { l with name := .command .addroundkey }
  | .aesEnc v => (withVariant v l.operands).map fun ops => { l with name := .command .encrypt, operands := ops }
  | .aesDec v => (withVariant v l.operands).map fun ops => { l with name := .command .decrypt, operands := ops }

/-- The assembler: "rejects an N not in {4, 6, 7, 10, 12, 14}, an RI above 15, an L above 63 and a suffix on a
non-lane command" (R111); a misaligned lane start it does not reject. -/
def assemble (l : AsmLine) : Option Instr :=
  (expandLine l).bind fun e =>
    match e.name with
    | .command m => (commandOf m e.suffix e.operands).bind fun i => if i.wf then some i else none
    | _ => none

/-- `kr<K>` when B = 1 and bare `kr` when B = 0 (R113). -/
def keyRegOperand : KeySel → AsmOperand
  | .broadcast k => .keyReg k.val
  | .perLane => .keyRegs

/-- `ks<K>` when B = 1 and bare `ks` when B = 0 (R113). -/
def slotOperand : KeySel → AsmOperand
  | .broadcast k => .slot k.val
  | .perLane => .slots

/-- `ks<K>@<RI>` when B = 1 and `ks@<RI>` when B = 0 (R113). -/
def slotAtOperand (key : KeySel) (ri : Nat) : AsmOperand :=
  match key with
  | .broadcast k => .slotAt k.val ri
  | .perLane => .slotsAt ri

/-- The operands of an instruction in canonical form (R111, R113). -/
def operandsOf : Instr → List AsmOperand
  | .subbytes _ sl => [.lane sl.val]
  | .invsubbytes _ sl => [.lane sl.val]
  | .shiftrows _ sl => [.lane sl.val]
  | .invshiftrows _ sl => [.lane sl.val]
  | .mixcolumns _ sl => [.lane sl.val]
  | .invmixcolumns _ sl => [.lane sl.val]
  | .addroundkey _ sl key => [.lane sl.val, keyRegOperand key]
  | .round _ sl key => [.lane sl.val, keyRegOperand key]
  | .finalround _ sl key => [.lane sl.val, keyRegOperand key]
  | .invround _ sl key => [.lane sl.val, keyRegOperand key]
  | .invfinalround _ sl key => [.lane sl.val, keyRegOperand key]
  | .roundkf _ sl key => [.lane sl.val, keyRegOperand key]
  | .finalroundkf _ sl key => [.lane sl.val, keyRegOperand key]
  | .invroundkf _ sl key => [.lane sl.val, keyRegOperand key]
  | .invfinalroundkf _ sl key => [.lane sl.val, keyRegOperand key]
  | .roundnk _ sl => [.lane sl.val]
  | .finalroundnk _ sl => [.lane sl.val]
  | .invroundnk _ sl => [.lane sl.val]
  | .invfinalroundnk _ sl => [.lane sl.val]
  | .rounds _ sl key ri cnt => [.lane sl.val, slotAtOperand key ri, .count cnt]
  | .roundsfin _ sl key ri cnt => [.lane sl.val, slotAtOperand key ri, .count cnt]
  | .invrounds _ sl key ri cnt => [.lane sl.val, slotAtOperand key ri, .count cnt]
  | .invroundsfin _ sl key ri cnt => [.lane sl.val, slotAtOperand key ri, .count cnt]
  | .roundskf _ sl key ri cnt => [.lane sl.val, slotAtOperand key ri, .count cnt]
  | .roundskffin _ sl key ri cnt => [.lane sl.val, slotAtOperand key ri, .count cnt]
  | .invroundskf _ sl key ri cnt => [.lane sl.val, slotAtOperand key ri, .count cnt]
  | .invroundskffin _ sl key ri cnt => [.lane sl.val, slotAtOperand key ri, .count cnt]
  | .roundsnk _ sl cnt => [.lane sl.val, .count cnt]
  | .roundsnkfin _ sl cnt => [.lane sl.val, .count cnt]
  | .invroundsnk _ sl cnt => [.lane sl.val, .count cnt]
  | .invroundsnkfin _ sl cnt => [.lane sl.val, .count cnt]
  | .encrypt _ sl key v => [.lane sl.val, slotOperand key, .variant v]
  | .decrypt _ sl key v => [.lane sl.val, slotOperand key, .variant v]
  | .keyexp k l => [.slot k.val, .number l]
  | .keyinv k ss => [.slot k.val, .slot ss.val]
  | .rkread .kr dl k ri => [.keyReg dl.val, .slotAt k.val ri]
  | .rkread .st dl k ri => [.lane dl.val, .slotAt k.val ri]
  | .capinit => []
  | .qhwavail => []
  | .qlanes => []

/-- R113: the canonical mnemonic, never a pseudo-instruction; the lane suffix only when LN is not 0. -/
def disassemble (i : Instr) : AsmLine :=
  ⟨.command i.mnemonic, i.laneCount?.getD .one, operandsOf i⟩

/-! ## Text (R110) -/

/-- R104: the mnemonic as written. -/
def mnemonicText : Mnemonic → String
  | .subbytes => "SUBBYTES"
  | .invsubbytes => "INVSUBBYTES"
  | .shiftrows => "SHIFTROWS"
  | .invshiftrows => "INVSHIFTROWS"
  | .mixcolumns => "MIXCOLUMNS"
  | .invmixcolumns => "INVMIXCOLUMNS"
  | .addroundkey => "ADDROUNDKEY"
  | .round => "ROUND"
  | .finalround => "FINALROUND"
  | .invround => "INVROUND"
  | .invfinalround => "INVFINALROUND"
  | .roundkf => "ROUNDKF"
  | .finalroundkf => "FINALROUNDKF"
  | .invroundkf => "INVROUNDKF"
  | .invfinalroundkf => "INVFINALROUNDKF"
  | .roundnk => "ROUNDNK"
  | .finalroundnk => "FINALROUNDNK"
  | .invroundnk => "INVROUNDNK"
  | .invfinalroundnk => "INVFINALROUNDNK"
  | .rounds => "ROUNDS"
  | .roundsfin => "ROUNDSFIN"
  | .invrounds => "INVROUNDS"
  | .invroundsfin => "INVROUNDSFIN"
  | .roundskf => "ROUNDSKF"
  | .roundskffin => "ROUNDSKFFIN"
  | .invroundskf => "INVROUNDSKF"
  | .invroundskffin => "INVROUNDSKFFIN"
  | .roundsnk => "ROUNDSNK"
  | .roundsnkfin => "ROUNDSNKFIN"
  | .invroundsnk => "INVROUNDSNK"
  | .invroundsnkfin => "INVROUNDSNKFIN"
  | .encrypt => "ENCRYPT"
  | .decrypt => "DECRYPT"
  | .keyexp => "KEYEXP"
  | .keyinv => "KEYINV"
  | .rkread => "RKREAD"
  | .capinit => "CAPINIT"
  | .qhwavail => "QHWAVAIL"
  | .qlanes => "QLANES"

/-- R103, R111: the word of an expected variant. -/
def variantText : Variant → String
  | .any => "any"
  | .aes128 => "aes128"
  | .aes192 => "aes192"
  | .aes256 => "aes256"

/-- R112: the beginning of an AES-n pseudo-instruction's name; there is none for `any`. -/
def variantPrefix : Variant → String
  | .any => "ANY"
  | .aes128 => "AES128"
  | .aes192 => "AES192"
  | .aes256 => "AES256"

/-- R112: the name of a line as written. -/
def nameText : AsmName → String
  | .command m => mnemonicText m
  | .nop => "NOP"
  | .ark => "ARK"
  | .aesEnc v => variantPrefix v ++ "ENC"
  | .aesDec v => variantPrefix v ++ "DEC"

/-- R110: `.L2` sets LN = 1, `.L4` sets LN = 2, no suffix sets LN = 0. -/
def suffixText : LaneCount → String
  | .one => ""
  | .two => ".L2"
  | .four => ".L4"

/-- R111: an operand as written. -/
def operandText : AsmOperand → String
  | .lane i => "s" ++ toString i
  | .keyReg i => "kr" ++ toString i
  | .keyRegs => "kr"
  | .slot i => "ks" ++ toString i
  | .slots => "ks"
  | .slotAt i ri => "ks" ++ toString i ++ "@" ++ toString ri
  | .slotsAt ri => "ks@" ++ toString ri
  | .count n => "#" ++ toString n
  | .number n => toString n
  | .variant v => variantText v

/-- R110: operands separated by commas. -/
def operandsText : List AsmOperand → String
  | [] => ""
  | [o] => operandText o
  | o :: os => operandText o ++ ", " ++ operandsText os

/-- R110: the canonical text of a line: upper-case mnemonic, lower-case operands. -/
def lineText (l : AsmLine) : String :=
  nameText l.name ++ suffixText l.suffix ++ (if l.operands = [] then "" else " " ++ operandsText l.operands)

/-- R110: mnemonics and register names are case-insensitive. That the lane suffix, the variant words and the names of
the pseudo-instructions (R112) are folded too is DESIGN CHOICE, log entry 12. -/
def fold (cs : List Char) : List Char := cs.map Char.toLower

/-- The names a line may begin with. -/
def names : List AsmName :=
  Mnemonic.all.map .command ++
    [.nop, .ark, .aesEnc .aes128, .aesEnc .aes192, .aesEnc .aes256, .aesDec .aes128, .aesDec .aes192, .aesDec .aes256]

/-- A name and its suffix, of already folded text. -/
def readHead (cs : List Char) : Option (AsmName × LaneCount) :=
  let parts := cs.splitOn '.'
  let suffix : Option LaneCount :=
    match parts.tail with
    | [] => some .one
    | [['l', '2']] => some .two
    | [['l', '4']] => some .four
    | _ => none
  match names.find? fun n => fold (nameText n).toList == parts.headD [], suffix with
  | some n, some k => some (n, k)
  | _, _ => none

/-- A decimal number (R110): one digit at least, digits only; leading zeros are read (DESIGN CHOICE, log entry 12). -/
def readNumber (cs : List Char) : Option Nat :=
  if cs ≠ [] ∧ cs.all Char.isDigit then some (cs.foldl (fun v c => 10 * v + (c.toNat - '0'.toNat)) 0) else none

/-- What follows `ks`: an index or nothing, then perhaps `@` and a round-key index. -/
def readSlot (cs : List Char) : Option AsmOperand :=
  match cs.splitOn '@' with
  | [[]] => some .slots
  | [i] => (readNumber i).map .slot
  | [[], ri] => (readNumber ri).map .slotsAt
  | [i, ri] => (readNumber i).bind fun i => (readNumber ri).map (.slotAt i)
  | _ => none

/-- An operand, of already folded text without spaces. -/
def readOperand (cs : List Char) : Option AsmOperand :=
  match [Variant.any, .aes128, .aes192, .aes256].find? fun v => (variantText v).toList == cs with
  | some v => some (.variant v)
  | none =>
    match cs with
    | ['k', 'r'] => some .keyRegs
    | 'k' :: 'r' :: i => (readNumber i).map .keyReg
    | 'k' :: 's' :: rest => readSlot rest
    | 's' :: i => (readNumber i).map .lane
    | '#' :: n => (readNumber n).map .count
    | n => (readNumber n).map .number

/-- The results of a list of readings, if all of them succeed. -/
def sequence : List (Option AsmOperand) → Option (List AsmOperand)
  | [] => some []
  | none :: _ => none
  | some o :: rest => (sequence rest).map (o :: ·)

/-- R110: a line of text, read. The whole line is folded and spaces among the operands are dropped (DESIGN CHOICE, log
entry 12). -/
def readLine (text : String) : Option AsmLine :=
  let cs := fold text.toList
  let body := cs.dropWhile (· == ' ')
  let head := body.takeWhile (· != ' ')
  let rest := (body.dropWhile (· != ' ')).filter (· != ' ')
  match readHead head with
  | none => none
  | some (name, n) =>
    if rest = [] then some ⟨name, n, []⟩
    else (sequence ((rest.splitOn ',').map readOperand)).map fun ops => ⟨name, n, ops⟩

/-- Text to instruction. -/
def assembleText (text : String) : Option Instr := (readLine text).bind assemble

/-- Instruction to canonical text (R113). -/
def disassembleText (i : Instr) : String := lineText (disassemble i)

end Asm

end Sys2Proof
end

