-- ==== Sys2Proof/Safety.lean ====
section
/-!
DEFINITION. What counts as a safe run, in the terms claims use: the invariant of the machine, runs of commands
and of steps, the interleaving of several hosts, and two relations between states: agreement on everything an
operation can read, and agreement on data whatever the capabilities.
-/

namespace Sys2Proof.Machine

/-! ## The invariant -/

/-- R35: the round count is 0, 10, 12 or 14, and a filled slot holds ROUNDS + 1 round keys. -/
def Slot.ok (q : Slot) : Prop :=
  q.rounds ∈ [0, 10, 12, 14] ∧ q.rk.length = if q.rounds = 0 then 0 else q.rounds + 1

/-- R37, R350: CAPS is 0 before the latch, and after it INIT and the instance's probe. -/
def capsOk (s : State) : Prop := s.caps = 0 ∨ s.caps = capsWord s.config.probe

/-- R38, R420: STATUS is that of a completed command (or RESET), of the one Error, or of a Fatal. -/
def statusOk (status : Word) : Prop :=
  (∃ p : Path, status = statusWord false false 0x00 p.code) ∨
  status = statusWord true false Cause.invalidKeyLength.code Path.sw.code ∨
  ∃ c : Cause, c.isFatal = true ∧ status = statusWord false true c.code Path.sw.code

/-- The machine's invariant: it holds at RESET and every step keeps it. -/
structure State.Inv (s : State) : Prop where
  slots : ∀ k : Lane, (s.ks.get k).ok
  caps : capsOk s
  status : statusOk s.status
  /-- R39: FCMD is written only when a Fatal is raised, and a Fatal is left only by RESET (R427). -/
  fcmd : fatalBit s.status = false → s.fcmd = 0
  /-- R40, R361, R362: RES is a query's result. -/
  res : s.res ∈ [0, 1, 2, 4]

/-! ## Runs -/

/-- The commands of a list, executed one after the other from `s`, all complete (none raises a cause or stops), and
`t` is the state they leave. -/
def AllComplete : List Instr → State → State → Prop
  | [], s, t => t = s
  | i :: is, s, t => ∃ u, exec i s = .next u ∧ causeField u.status = 0 ∧ AllComplete is u t

/-- The states a run from `s` can reach by steps. -/
inductive Reaches : State → State → Prop where
  | refl (s : State) : Reaches s s
  | tail {s t u : State} : Reaches s t → step t = .next u → Reaches s u

/-- R79: an order in which the operations of several hosts may be accepted: any interleaving of whole
operations that keeps each host's own order. -/
inductive Interleaves : List (List HostOp) → List HostOp → Prop where
  | done {hosts : List (List HostOp)} : (∀ h ∈ hosts, h = []) → Interleaves hosts []
  | take {before after : List (List HostOp)} {op : HostOp} {rest order : List HostOp} :
      Interleaves (before ++ rest :: after) order → Interleaves (before ++ (op :: rest) :: after) (op :: order)

/-- R432: a run that raises no Fatal: every state it reaches is not HALTED. -/
def NeverFatal (s : State) : Prop := ∀ t, Reaches s t → halted t = false

/-- R5, R79: the multi-host system from `s` raises no Fatal whatever HOST_ORDER is. -/
def HostsNeverFatal (s : State) (hosts : List (List HostOp)) : Prop :=
  ∀ order, Interleaves hosts order → NeverFatal { s with port := order }

/-! ## Relations between states -/

/-- Two files that agree wherever their (common) written tag is set. -/
def agreeWritten {α : Type} (tags : Quad Bool) (a b : Quad α) : Prop :=
  ∀ i : Lane, tags.get i = true → a.get i = b.get i

/-- R32: the states agree on everything but the storage of unwritten lanes and bytes. -/
structure SameWritten (s t : State) : Prop where
  wst : s.wst = t.wst
  st : agreeWritten s.wst s.st t.st
  wkr : s.wkr = t.wkr
  kr : agreeWritten s.wkr s.kr t.kr
  wki : s.wki = t.wki
  keyin : ∀ j : Fin 32, s.wki[j] = true → s.keyin[j] = t.keyin[j]
  ks : s.ks = t.ks
  caps : s.caps = t.caps
  status : s.status = t.status
  fcmd : s.fcmd = t.fcmd
  res : s.res = t.res
  config : s.config = t.config
  port : s.port = t.port
  reply : s.reply = t.reply
  resets : s.resets = t.resets

/-- Two outcomes of the same kind, with the same stop, or with related next states. -/
def outcomesRelated (R : State → State → Prop) : Result → Result → Prop
  | .next s, .next t => R s t
  | .fault a, .fault b => a = b
  | .refused a, .refused b => a = b
  | _, _ => False

/-- R356: the states hold the same data, whatever their configurations, capabilities and paths. -/
structure SameData (s t : State) : Prop where
  st : s.st = t.st
  wst : s.wst = t.wst
  kr : s.kr = t.kr
  wkr : s.wkr = t.wkr
  keyin : s.keyin = t.keyin
  wki : s.wki = t.wki
  ks : s.ks = t.ks

/-! ## Families of commands by their axes (R105) -/

/-- The single-round command of an order, forward or inverse, final or not (R231). A no-key round takes no
key. -/
def roundInstr (ord : Ord) (inv fin : Bool) (n : LaneCount) (sl : Lane) (key : KeySel) : Instr :=
  match ord, inv, fin with
  | .std, false, false => .round n sl key
  | .std, false, true => .finalround n sl key
  | .std, true, false => .invround n sl key
  | .std, true, true => .invfinalround n sl key
  | .kf, false, false => .roundkf n sl key
  | .kf, false, true => .finalroundkf n sl key
  | .kf, true, false => .invroundkf n sl key
  | .kf, true, true => .invfinalroundkf n sl key
  | .nk, false, false => .roundnk n sl
  | .nk, false, true => .finalroundnk n sl
  | .nk, true, false => .invroundnk n sl
  | .nk, true, true => .invfinalroundnk n sl

/-- The batched command of an order, forward or inverse, with or without a final round (R313). A no-key one
takes no slot and no index. -/
def roundsInstr (ord : Ord) (inv fin : Bool) (n : LaneCount) (sl : Lane) (key : KeySel) (ri cnt : Nat) : Instr :=
  match ord, inv, fin with
  | .std, false, false => .rounds n sl key ri cnt
  | .std, false, true => .roundsfin n sl key ri cnt
  | .std, true, false => .invrounds n sl key ri cnt
  | .std, true, true => .invroundsfin n sl key ri cnt
  | .kf, false, false => .roundskf n sl key ri cnt
  | .kf, false, true => .roundskffin n sl key ri cnt
  | .kf, true, false => .invroundskf n sl key ri cnt
  | .kf, true, true => .invroundskffin n sl key ri cnt
  | .nk, false, false => .roundsnk n sl cnt
  | .nk, false, true => .roundsnkfin n sl cnt
  | .nk, true, false => .invroundsnk n sl cnt
  | .nk, true, true => .invroundsnkfin n sl cnt

/-- R155: the single-lane form of a datapath command for lane l: LN = 0, SL = l and, when B = 0, B = 1 and
K = l. A command without lanes has no such form. -/
def singleLane (l : Lane) : Instr → Option Instr
  | .subbytes _ _ => some (.subbytes .one l)
  | .invsubbytes _ _ => some (.invsubbytes .one l)
  | .shiftrows _ _ => some (.shiftrows .one l)
  | .invshiftrows _ _ => some (.invshiftrows .one l)
  | .mixcolumns _ _ => some (.mixcolumns .one l)
  | .invmixcolumns _ _ => some (.invmixcolumns .one l)
  | .addroundkey _ _ key => some (.addroundkey .one l (.broadcast (key.index l)))
  | .round _ _ key => some (.round .one l (.broadcast (key.index l)))
  | .finalround _ _ key => some (.finalround .one l (.broadcast (key.index l)))
  | .invround _ _ key => some (.invround .one l (.broadcast (key.index l)))
  | .invfinalround _ _ key => some (.invfinalround .one l (.broadcast (key.index l)))
  | .roundkf _ _ key => some (.roundkf .one l (.broadcast (key.index l)))
  | .finalroundkf _ _ key => some (.finalroundkf .one l (.broadcast (key.index l)))
  | .invroundkf _ _ key => some (.invroundkf .one l (.broadcast (key.index l)))
  | .invfinalroundkf _ _ key => some (.invfinalroundkf .one l (.broadcast (key.index l)))
  | .roundnk _ _ => some (.roundnk .one l)
  | .finalroundnk _ _ => some (.finalroundnk .one l)
  | .invroundnk _ _ => some (.invroundnk .one l)
  | .invfinalroundnk _ _ => some (.invfinalroundnk .one l)
  | .rounds _ _ key ri cnt => some (.rounds .one l (.broadcast (key.index l)) ri cnt)
  | .roundsfin _ _ key ri cnt => some (.roundsfin .one l (.broadcast (key.index l)) ri cnt)
  | .invrounds _ _ key ri cnt => some (.invrounds .one l (.broadcast (key.index l)) ri cnt)
  | .invroundsfin _ _ key ri cnt => some (.invroundsfin .one l (.broadcast (key.index l)) ri cnt)
  | .roundskf _ _ key ri cnt => some (.roundskf .one l (.broadcast (key.index l)) ri cnt)
  | .roundskffin _ _ key ri cnt => some (.roundskffin .one l (.broadcast (key.index l)) ri cnt)
  | .invroundskf _ _ key ri cnt => some (.invroundskf .one l (.broadcast (key.index l)) ri cnt)
  | .invroundskffin _ _ key ri cnt => some (.invroundskffin .one l (.broadcast (key.index l)) ri cnt)
  | .roundsnk _ _ cnt => some (.roundsnk .one l cnt)
  | .roundsnkfin _ _ cnt => some (.roundsnkfin .one l cnt)
  | .invroundsnk _ _ cnt => some (.invroundsnk .one l cnt)
  | .invroundsnkfin _ _ cnt => some (.invroundsnkfin .one l cnt)
  | .encrypt _ _ key v => some (.encrypt .one l (.broadcast (key.index l)) v)
  | .decrypt _ _ key v => some (.decrypt .one l (.broadcast (key.index l)) v)
  | .keyexp _ _ => none
  | .keyinv _ _ => none
  | .rkread _ _ _ _ => none
  | .capinit => none
  | .qhwavail => none
  | .qlanes => none

/-- R154: the key selection of a command, if it takes a key. -/
def keyOf : Instr → Option KeySel
  | .subbytes _ _ => none
  | .invsubbytes _ _ => none
  | .shiftrows _ _ => none
  | .invshiftrows _ _ => none
  | .mixcolumns _ _ => none
  | .invmixcolumns _ _ => none
  | .addroundkey _ _ key => some key
  | .round _ _ key => some key
  | .finalround _ _ key => some key
  | .invround _ _ key => some key
  | .invfinalround _ _ key => some key
  | .roundkf _ _ key => some key
  | .finalroundkf _ _ key => some key
  | .invroundkf _ _ key => some key
  | .invfinalroundkf _ _ key => some key
  | .roundnk _ _ => none
  | .finalroundnk _ _ => none
  | .invroundnk _ _ => none
  | .invfinalroundnk _ _ => none
  | .rounds _ _ key _ _ => some key
  | .roundsfin _ _ key _ _ => some key
  | .invrounds _ _ key _ _ => some key
  | .invroundsfin _ _ key _ _ => some key
  | .roundskf _ _ key _ _ => some key
  | .roundskffin _ _ key _ _ => some key
  | .invroundskf _ _ key _ _ => some key
  | .invroundskffin _ _ key _ _ => some key
  | .roundsnk _ _ _ => none
  | .roundsnkfin _ _ _ => none
  | .invroundsnk _ _ _ => none
  | .invroundsnkfin _ _ _ => none
  | .encrypt _ _ key _ => some key
  | .decrypt _ _ key _ => some key
  | .keyexp _ _ => none
  | .keyinv _ _ => none
  | .rkread _ _ _ _ => none
  | .capinit => none
  | .qhwavail => none
  | .qlanes => none

/-- R422: the causes the commands of a class can raise once their word has decoded. -/
def causesOf : Class → List Cause
  | .t => [.laneOutOfRange]
  | .tk => [.laneOutOfRange]
  | .bk => [.laneOutOfRange, .scheduleEmpty, .roundIndexOutOfRange]
  | .bn => [.laneOutOfRange]
  | .c => [.laneOutOfRange, .scheduleEmpty, .roundCountMismatch]
  | .kexp => [.invalidKeyLength]
  | .kinv => [.scheduleEmpty]
  | .rkr => [.scheduleEmpty, .roundIndexOutOfRange]
  | .sys => []

/-- R422: the classes whose commands can meet an unwritten operand. -/
def readsTagged : Class → Bool
  | .t | .tk | .bk | .bn | .c | .kexp => true
  | .kinv | .rkr | .sys => false

/-- R281: the operations that can change slot k: RESET, and a command that names it as destination. -/
def writesSlot (k : Lane) (op : HostOp) : Prop :=
  op = .reset ∨ ∃ cw, op = .issue cw ∧ ((∃ l, decode cw = .ok (.keyexp k l)) ∨ ∃ ss, decode cw = .ok (.keyinv k ss))

/-! ## Sequences of rounds, and matrices over the field -/

/-- The Block after j of the rounds `round 0`, `round 1`, ... from `s`. -/
def roundsSeq (round : Nat → Block → Block) (s : Block) : Nat → Block
  | 0 => s
  | j + 1 => round j (roundsSeq round s j)

/-- R315: the single-round commands a batched command stands for. Before each keyed round, RKREAD puts
`KS[keyslot(i)].RK[RI + j]` into key register i of every lane i. -/
def sequentialRounds (ord : Ord) (inv fin : Bool) (n : LaneCount) (sl : Lane) (key : KeySel) (ri cnt : Nat) :
    List Instr :=
  (List.range cnt).flatMap fun j =>
    (if ord = .nk then [] else (lanes n sl).map fun l => .rkread .kr l (key.index l) (ri + j)) ++
      [roundInstr ord inv (fin && j + 1 == cnt) n sl .perLane]

/-- R189: each column multiplied by the circulant matrix with first row `row`, products by `gmul` (R183). -/
def circulant (row : List Byte) (s : Block) : Block := Block.ofFn fun j =>
  let product := fun k : Nat =>
    gmul (row.getD ((k + 4 - j.val % 4) % 4) 0) (s.byte (Fin.ofNat 16 (4 * (j.val / 4) + k)))
  product 0 ^^^ product 1 ^^^ product 2 ^^^ product 3

/-! ## What a command reads, and what it leaves when it completes -/

/-- Every state lane of the command has been written (R156). -/
def LanesWritten (n : LaneCount) (sl : Lane) (s : State) : Prop :=
  ∀ l : Lane, inLanes n sl l = true → s.wst.get l = true

/-- Every key register the lanes of the command use has been written (R156). -/
def KeysWritten (n : LaneCount) (sl : Lane) (key : KeySel) (s : State) : Prop :=
  ∀ l : Lane, inLanes n sl l = true → s.wkr.get (key.index l) = true

/-- R156, R157: the command reads a lane, a key register or a key byte that has not been written. -/
def ReadsUnwritten (i : Instr) (s : State) : Prop :=
  (∃ n sl, i.laneCount? = some n ∧ i.start? = some sl ∧
    (¬ LanesWritten n sl s ∨
      i.mnemonic.cls = .tk ∧ ∃ key, keyOf i = some key ∧ ¬ KeysWritten n sl key s)) ∨
  ∃ k l, i = .keyexp k l ∧ ∃ j : Fin 32, j.val < l ∧ s.wki[j] = false

/-- No lane's slot is empty (R314, R330). -/
def SlotsFilled (n : LaneCount) (sl : Lane) (key : KeySel) (s : State) : Prop :=
  ∀ l : Lane, inLanes n sl l = true → (s.ks.get (key.index l)).rounds ≠ 0

/-- Every lane's last key index is at most its ROUNDS (R314). -/
def KeysInRange (n : LaneCount) (sl : Lane) (key : KeySel) (ri cnt : Nat) (s : State) : Prop :=
  ∀ l : Lane, inLanes n sl l = true → ri + cnt - 1 ≤ (s.ks.get (key.index l)).rounds

/-- Every lane's schedule has the round count V names, if it names one (R330). -/
def VariantFits (n : LaneCount) (sl : Lane) (key : KeySel) (v : Variant) (s : State) : Prop :=
  ∀ l : Lane, inLanes n sl l = true → ∀ nr, v.expected = some nr → (s.ks.get (key.index l)).rounds = nr

/-- R350: CAPS after the latch of a command issued in `s`. -/
def latchedCaps (s : State) : Word := if s.caps.getLsbD 0 then s.caps else capsWord s.config.probe

/-- What every completed command leaves (R159, R47): STATUS with ERR, FATAL and CAUSE 0 and the command's path,
CAPS latched; FCMD, the configuration, the pending operations, the reply and the count of RESETs as they were. -/
structure Completed (i : Instr) (s t : State) : Prop where
  status : t.status = statusWord false false 0x00 (pathOf i { s with caps := latchedCaps s }).code
  caps : t.caps = latchedCaps s
  fcmd : t.fcmd = s.fcmd
  config : t.config = s.config
  port : t.port = s.port
  reply : t.reply = s.reply
  resets : t.resets = s.resets

/-- What a completed datapath command leaves (R151, R158): each of its lanes holds its result and is written;
every other lane, KR, KEYIN, KS, RES and their tags are as they were. -/
structure LanesCompleted (i : Instr) (n : LaneCount) (sl : Lane) (result : Lane → Block) (s t : State) : Prop where
  completed : Completed i s t
  lane : ∀ l : Lane, inLanes n sl l = true → t.st.get l = result l ∧ t.wst.get l = true
  other : ∀ l : Lane, inLanes n sl l = false → t.st.get l = s.st.get l ∧ t.wst.get l = s.wst.get l
  kr : t.kr = s.kr
  wkr : t.wkr = s.wkr
  keyin : t.keyin = s.keyin
  wki : t.wki = s.wki
  ks : t.ks = s.ks
  res : t.res = s.res

/-- What a completed KEYEXP or KEYINV leaves (R281): slot k holds `q`, the other slots, ST, KR, KEYIN, RES and the
tags are as they were. -/
structure SlotCompleted (i : Instr) (k : Lane) (q : Slot) (s t : State) : Prop where
  completed : Completed i s t
  slot : t.ks.get k = q
  other : ∀ j : Lane, j ≠ k → t.ks.get j = s.ks.get j
  st : t.st = s.st
  wst : t.wst = s.wst
  kr : t.kr = s.kr
  wkr : t.wkr = s.wkr
  keyin : t.keyin = s.keyin
  wki : t.wki = s.wki
  res : t.res = s.res

/-- What a command that raises a cause leaves (R423, R424, R429): STATUS, FCMD for a Fatal, CAPS latched, and
nothing else changed. -/
structure Raised (c : Cause) (cw : Word) (s t : State) : Prop where
  status : t.status = statusWord (!c.isFatal) c.isFatal c.code 0
  fcmd : t.fcmd = if c.isFatal then cw else s.fcmd
  rest : t = { s with caps := latchedCaps s, status := t.status, fcmd := t.fcmd }

end Sys2Proof.Machine
end

