-- ==== Sys2Proof/Certificates/Slice0/Obligations.lean ====
section
/-!
DEFINITION. The statements for the provers, from the numbered rules of spec/, in the order of OBLIGATIONS.json.

A command's meaning is `exec`; a machine step is `step`. A statement about a command quantifies over every state,
hence over every configuration (PROBE and HW_ELIGIBLE, R8). That `exec` answers also in a HALTED state, where the port
refuses the ISSUE before it (R96), is the model's (log entry 13, DEDUCED); `HaltedOperations` states the refusal.
-/

section

open Sys2Proof Sys2Proof.Machine

/-! ## Encoding -/

/-- R101 to R107: decoding the encoding of any well-formed command gives the command back, every operand at every
value its field admits. -/
def Obligations.DecodeEncode : Prop :=
  ∀ i : Instr, i.wf = true → decode (encode i) = .ok i

/-- R107, R108: a word that decodes is the encoding of the command it decodes to, which is well-formed. So each
command has exactly one word, and FCMD records the word issued. -/
def Obligations.EncodeDecode : Prop :=
  ∀ (cw : Word) (i : Instr), decode cw = .ok i → i.wf = true ∧ encode i = cw

/-- R106, R107: the legal words are exactly those that some opcode's mask and match admit, with LN not 3, K = 0 when
B = 0, and NC at most 5; and a legal word names the command of its opcode. -/
def Obligations.LegalWords : Prop :=
  ∀ cw : Word,
    ((∃ i, decode cw = .ok i) ↔
      ∃ m : Mnemonic,
        cw.extractLsb' 24 8 = m.op ∧ cw &&& m.cls.mask = m.op ++ (0 : BitVec 24) ∧
        (m.cls ∈ [Class.t, .tk, .bk, .bn, .c] → cw.extractLsb' 22 2 ≠ 3) ∧
        (m.cls ∈ [Class.tk, .bk, .c] → cw.extractLsb' 19 1 = 0 → cw.extractLsb' 17 2 = 0) ∧
        (m.cls ∈ [Class.bk, .bn] → (cw.extractLsb' 10 3).toNat ≤ 5)) ∧
    ∀ i, decode cw = .ok i → i.mnemonic.op = cw.extractLsb' 24 8

/-- R105: the opcodes of the single and batched rounds are made of the three axes, order 3 is unassigned. -/
def Obligations.OpcodeStructure : Prop :=
  (∀ (inv fin : Bool) (n : LaneCount) (sl : Lane) (key : KeySel) (ri cnt : Nat),
    ∀ p ∈ [(Ord.std, 0), (.kf, 1), (.nk, 2)],
      (roundInstr p.1 inv fin n sl key).mnemonic.op.toNat = 0x10 + 4 * p.2 + 2 * inv.toNat + fin.toNat ∧
      (roundsInstr p.1 inv fin n sl key ri cnt).mnemonic.op.toNat = 0x20 + 4 * p.2 + 2 * inv.toNat + fin.toNat) ∧
  ∀ cw : Word, (cw.extractLsb' 24 8).toNat ∈ [0x1C, 0x1D, 0x1E, 0x1F, 0x2C, 0x2D, 0x2E, 0x2F] →
    decode cw = .error .opcode

/-- R114: every worked encoding, from its assembly text to its word and back.
The spec gives R114 as derived from its other rules. -/
def Obligations.WorkedEncodings : Prop :=
  ∀ p ∈ ([("SUBBYTES s0", 0x01000000), ("SUBBYTES.L4 s0", 0x01800000), ("SUBBYTES s3", 0x01300000),
      ("INVMIXCOLUMNS s3", 0x06300000), ("ADDROUNDKEY s0, kr0", 0x07080000), ("ARK s0, kr0", 0x07080000),
      ("ADDROUNDKEY s1, kr2", 0x071C0000), ("ADDROUNDKEY.L2 s2, kr", 0x07600000),
      ("ADDROUNDKEY.L2 s2, kr0", 0x07680000), ("ROUND s1, kr1", 0x101A0000), ("ROUND s1, kr2", 0x101C0000)] ++
    [("ROUND.L4 s0, kr", 0x10800000), ("FINALROUNDKF.L4 s0, kr", 0x15800000), ("ROUNDS s1, ks0@2, #4", 0x20184000),
      ("ROUNDSFIN s0, ks0@1, #10", 0x21082C00), ("INVROUNDSFIN s0, ks1@1, #14", 0x230A3400),
      ("ROUNDSNKFIN.L2 s2, #7", 0x29600800), ("ENCRYPT s0, ks0, aes128", 0x30080800),
      ("AES128ENC s0, ks0", 0x30080800), ("ENCRYPT.L2 s0, ks, any", 0x30400000),
      ("DECRYPT s0, ks1, aes128", 0x310A0800), ("AES256ENC s0, ks3", 0x300E1800)] ++
    [("KEYEXP ks0, 16", 0x40000800), ("KEYEXP ks0, 14", 0x40000700), ("KEYEXP ks3, 32", 0x40061000),
      ("KEYINV ks1, ks0", 0x41020000), ("RKREAD kr0, ks0@10", 0x42014000), ("RKREAD s1, ks0@10", 0x42014C00),
      ("RKREAD s3, ks2@14", 0x4205DC00), ("CAPINIT", 0x50000000), ("NOP", 0x50000000), ("QHWAVAIL", 0x51000000),
      ("QLANES", 0x52000000)] : List (String × Word)),
    (Asm.assembleText p.1).map encode = some p.2 ∧ (decode p.2).toOption = Asm.assembleText p.1

/-- R112: each pseudo-instruction assembles to the command it stands for, with any lane suffix and operands; NOP is
the word 0x50000000. -/
def Obligations.PseudoInstructions : Prop :=
  ∀ (n : LaneCount) (ops : List AsmOperand) (sl ks : AsmOperand),
    Asm.assemble ⟨.nop, .one, []⟩ = some .capinit ∧ encode .capinit = 0x50000000 ∧
    Asm.assemble ⟨.ark, n, ops⟩ = Asm.assemble ⟨.command .addroundkey, n, ops⟩ ∧
    ∀ v ∈ [Variant.aes128, .aes192, .aes256],
      Asm.assemble ⟨.aesEnc v, n, [sl, ks]⟩ = Asm.assemble ⟨.command .encrypt, n, [sl, ks, .variant v]⟩ ∧
      Asm.assemble ⟨.aesDec v, n, [sl, ks]⟩ = Asm.assemble ⟨.command .decrypt, n, [sl, ks, .variant v]⟩

/-- R113: disassembly followed by assembly gives back the same word for every legal word.
The spec gives R113 as derived from its other rules. -/
def Obligations.DisassemblyRoundTrip : Prop :=
  ∀ (cw : Word) (i : Instr), decode cw = .ok i →
    (Asm.assemble (Asm.disassemble i)).map encode = some cw ∧ (Asm.disassemble i).name = .command i.mnemonic

/-! ## Control registers and tables -/

/-- R37, R38: where the fields of CAPS and STATUS lie; every other bit is 0. -/
def Obligations.RegisterLayouts : Prop :=
  (∀ p : Probe, (capsWord p).toNat =
    1 + 2 * p.hw1.toNat + 4 * p.hwn.toNat + 8 * p.vw2.toNat + 16 * p.vw4.toNat) ∧
  ∀ (err fatal : Bool) (cause : BitVec 8) (path : BitVec 2),
    (statusWord err fatal cause path).toNat =
      err.toNat + 2 * fatal.toNat + 2 ^ 8 * cause.toNat + 2 ^ 16 * path.toNat

/-- R182 with R183, R184 to R186: the constant multipliers are products of the field, the S-box table is the affine
map of the field inverse, the inverse table inverts it both ways, and it has no fixed and no opposite fixed point.
The spec gives R182, R183 and R186 as derived from its other rules. -/
def Obligations.FieldTables : Prop :=
  ∀ x : Byte,
    mul2 x = gmul 2 x ∧ mul3 x = gmul 3 x ∧ mul9 x = gmul 9 x ∧ mul11 x = gmul 11 x ∧ mul13 x = gmul 13 x ∧
    mul14 x = gmul 14 x ∧
    (x ≠ 0 → gmul x (gfInverse x) = 1) ∧ gfInverse 0 = 0 ∧ sbox x = affine (gfInverse x) ∧
    invSbox (sbox x) = x ∧ sbox (invSbox x) = x ∧ sbox x ≠ x ∧ sbox x ≠ x ^^^ 0xFF

/-! ## Transforms -/

/-- R190, R191: SUBBYTES and INVSUBBYTES complete, and put every byte of each lane through the table. -/
def Obligations.SubstitutionCommands : Prop :=
  ∀ (n : LaneCount) (sl : Lane) (s : State), sl.val % n.count = 0 → LanesWritten n sl s →
    (∃ t, exec (.subbytes n sl) s = .next t ∧
      LanesCompleted (.subbytes n sl) n sl (fun l => Block.ofFn fun j => sbox ((s.st.get l).byte j)) s t) ∧
    (∃ t, exec (.invsubbytes n sl) s = .next t ∧
      LanesCompleted (.invsubbytes n sl) n sl (fun l => Block.ofFn fun j => invSbox ((s.st.get l).byte j)) s t)

/-- R192, R193 with R187, R188: SHIFTROWS moves row r of each lane left by r columns, INVSHIFTROWS right by r. Byte j
is row j mod 4 of column j div 4. -/
def Obligations.RowCommands : Prop :=
  ∀ (n : LaneCount) (sl : Lane) (s : State), sl.val % n.count = 0 → LanesWritten n sl s →
    (∃ t, exec (.shiftrows n sl) s = .next t ∧
      LanesCompleted (.shiftrows n sl) n sl
        (fun l => Block.ofFn fun j =>
          (s.st.get l).byte (Fin.ofNat 16 (j.val % 4 + 4 * ((j.val / 4 + j.val % 4) % 4)))) s t) ∧
    (∃ t, exec (.invshiftrows n sl) s = .next t ∧
      LanesCompleted (.invshiftrows n sl) n sl
        (fun l => Block.ofFn fun j =>
          (s.st.get l).byte (Fin.ofNat 16 (j.val % 4 + 4 * ((j.val / 4 + 4 - j.val % 4) % 4)))) s t)

/-- R194, R195 with R189: MIXCOLUMNS multiplies each column of each lane by the circulant matrix with first row
(2, 3, 1, 1), INVMIXCOLUMNS by that with first row (14, 11, 13, 9), over GF(2^8). -/
def Obligations.ColumnCommands : Prop :=
  ∀ (n : LaneCount) (sl : Lane) (s : State), sl.val % n.count = 0 → LanesWritten n sl s →
    (∃ t, exec (.mixcolumns n sl) s = .next t ∧
      LanesCompleted (.mixcolumns n sl) n sl (fun l => circulant [2, 3, 1, 1] (s.st.get l)) s t) ∧
    (∃ t, exec (.invmixcolumns n sl) s = .next t ∧
      LanesCompleted (.invmixcolumns n sl) n sl (fun l => circulant [14, 11, 13, 9] (s.st.get l)) s t)

/-- R196 with R154: ADDROUNDKEY XORs into each lane, byte by byte, its key register: register K for every lane when
the key is broadcast, register l for lane l when it is not. -/
def Obligations.AddRoundKeyCommand : Prop :=
  ∀ (n : LaneCount) (sl : Lane) (s : State), sl.val % n.count = 0 → LanesWritten n sl s →
    (∀ k : Lane, s.wkr.get k = true →
      ∃ t, exec (.addroundkey n sl (.broadcast k)) s = .next t ∧
        LanesCompleted (.addroundkey n sl (.broadcast k)) n sl
          (fun l => Block.ofFn fun j => (s.st.get l).byte j ^^^ (s.kr.get k).byte j) s t) ∧
    ((∀ l, inLanes n sl l = true → s.wkr.get l = true) →
      ∃ t, exec (.addroundkey n sl .perLane) s = .next t ∧
        LanesCompleted (.addroundkey n sl .perLane) n sl
          (fun l => Block.ofFn fun j => (s.st.get l).byte j ^^^ (s.kr.get l).byte j) s t)

/-- R197: the laws of the transforms.
The spec gives R197 as derived from its other rules. -/
def Obligations.TransformLaws : Prop :=
  (∀ s k : Block,
    isub (sub s) = s ∧ sub (isub s) = s ∧ ishr (shr s) = s ∧ shr (ishr s) = s ∧ imix (mix s) = s ∧
    mix (imix s) = s ∧ ark (ark s k) k = s ∧
    shr (sub s) = sub (shr s) ∧ ishr (isub s) = isub (ishr s) ∧
    mix (s.xor k) = (mix s).xor (mix k) ∧ imix (s.xor k) = (imix s).xor (imix k) ∧
    shr (s.xor k) = (shr s).xor (shr k) ∧ ishr (s.xor k) = (ishr s).xor (ishr k)) ∧
  (¬ ∀ s k : Block, sub (s.xor k) = (sub s).xor (sub k)) ∧
  (¬ ∀ s k : Block, isub (s.xor k) = (isub s).xor (isub k)) ∧
  sub Block.zero = Block.ofFn fun _ => 0x63

/-! ## Single rounds -/

/-- R240 to R243: the four standard rounds complete, with transforms first and the key last. -/
def Obligations.StandardRounds : Prop :=
  ∀ (n : LaneCount) (sl : Lane) (key : KeySel) (s : State),
    sl.val % n.count = 0 → LanesWritten n sl s → KeysWritten n sl key s →
    (∃ t, exec (.round n sl key) s = .next t ∧
      LanesCompleted (.round n sl key) n sl
        (fun l => (mix (shr (sub (s.st.get l)))).xor (s.kr.get (key.index l))) s t) ∧
    (∃ t, exec (.finalround n sl key) s = .next t ∧
      LanesCompleted (.finalround n sl key) n sl
        (fun l => (shr (sub (s.st.get l))).xor (s.kr.get (key.index l))) s t) ∧
    (∃ t, exec (.invround n sl key) s = .next t ∧
      LanesCompleted (.invround n sl key) n sl
        (fun l => (imix (isub (ishr (s.st.get l)))).xor (s.kr.get (key.index l))) s t) ∧
    (∃ t, exec (.invfinalround n sl key) s = .next t ∧
      LanesCompleted (.invfinalround n sl key) n sl
        (fun l => (isub (ishr (s.st.get l))).xor (s.kr.get (key.index l))) s t)

/-- R244 to R247: the four key-first rounds complete, with the key first and none after. -/
def Obligations.KeyFirstRounds : Prop :=
  ∀ (n : LaneCount) (sl : Lane) (key : KeySel) (s : State),
    sl.val % n.count = 0 → LanesWritten n sl s → KeysWritten n sl key s →
    (∃ t, exec (.roundkf n sl key) s = .next t ∧
      LanesCompleted (.roundkf n sl key) n sl
        (fun l => mix (shr (sub ((s.st.get l).xor (s.kr.get (key.index l)))))) s t) ∧
    (∃ t, exec (.finalroundkf n sl key) s = .next t ∧
      LanesCompleted (.finalroundkf n sl key) n sl
        (fun l => shr (sub ((s.st.get l).xor (s.kr.get (key.index l))))) s t) ∧
    (∃ t, exec (.invroundkf n sl key) s = .next t ∧
      LanesCompleted (.invroundkf n sl key) n sl
        (fun l => imix (isub (ishr ((s.st.get l).xor (s.kr.get (key.index l)))))) s t) ∧
    (∃ t, exec (.invfinalroundkf n sl key) s = .next t ∧
      LanesCompleted (.invfinalroundkf n sl key) n sl
        (fun l => isub (ishr ((s.st.get l).xor (s.kr.get (key.index l))))) s t)

/-- R248 to R251: the four no-key rounds complete, whatever the key registers hold and whether or not they have been
written. -/
def Obligations.NoKeyRounds : Prop :=
  ∀ (n : LaneCount) (sl : Lane) (s : State), sl.val % n.count = 0 → LanesWritten n sl s →
    (∃ t, exec (.roundnk n sl) s = .next t ∧
      LanesCompleted (.roundnk n sl) n sl (fun l => mix (shr (sub (s.st.get l)))) s t) ∧
    (∃ t, exec (.finalroundnk n sl) s = .next t ∧
      LanesCompleted (.finalroundnk n sl) n sl (fun l => shr (sub (s.st.get l))) s t) ∧
    (∃ t, exec (.invroundnk n sl) s = .next t ∧
      LanesCompleted (.invroundnk n sl) n sl (fun l => imix (isub (ishr (s.st.get l)))) s t) ∧
    (∃ t, exec (.invfinalroundnk n sl) s = .next t ∧
      LanesCompleted (.invfinalroundnk n sl) n sl (fun l => isub (ishr (s.st.get l))) s t)

/-- R236: a standard round is the no-key round with the key after it, a key-first round the no-key round with the key
before it; and a chain of key-first rounds with a last key addition is the standard cipher, forward and inverse.
The spec gives R236 as derived from its other rules. -/
def Obligations.OrderLaws : Prop :=
  (∀ (inv fin : Bool) (s k : Block),
    rnd .std inv fin s k = (rnd .nk inv fin s k).xor k ∧ rnd .kf inv fin s k = rnd .nk inv fin (s.xor k) k) ∧
  ∀ (nr : Nat) (k : Nat → Block) (s : Block), 0 < nr →
    (rnd .kf false true (roundsSeq (fun j x => rnd .kf false false x (k j)) s (nr - 1)) (k (nr - 1))).xor (k nr) =
      rnd .std false true
        (roundsSeq (fun j x => rnd .std false false x (k (j + 1))) (s.xor (k 0)) (nr - 1)) (k nr) ∧
    (rnd .kf true true (roundsSeq (fun j x => rnd .kf true false x (k j)) s (nr - 1)) (k (nr - 1))).xor (k nr) =
      rnd .std true true
        (roundsSeq (fun j x => rnd .std true false x (k (j + 1))) (s.xor (k 0)) (nr - 1)) (k nr)

/-- R237: which round undoes which, and that INVROUNDKF and INVROUND do not undo ROUND.
The spec gives R237 as derived from its other rules. -/
def Obligations.RoundInverses : Prop :=
  (∀ s k : Block,
    rnd .kf true true (rnd .std false true s k) k = s ∧ rnd .kf false true (rnd .std true true s k) k = s ∧
    rnd .nk true true (rnd .nk false true s k) k = s ∧
    rnd .kf true true (imix (rnd .std false false s k)) (imix k) = s ∧
    rnd .nk true true (imix (rnd .nk false false s k)) k = s) ∧
  (¬ ∀ s k : Block, rnd .kf true false (rnd .std false false s k) k = s) ∧
  (¬ ∀ s k : Block, rnd .std true false (rnd .std false false s k) k = s)

/-! ## Key schedule -/

/-- R280 with R273: KEYEXP of a key of 16, 24 or 32 written bytes completes; the slot then holds the words w of the
key expansion: the key itself, and then each word from the one before it and the one Nk before it. -/
def Obligations.KeyexpCommand : Prop :=
  ∀ (k : Lane) (l nr : Nat) (s : State), (l, nr) ∈ [(16, 10), (24, 12), (32, 14)] →
    (∀ j : Fin 32, j.val < l → s.wki[j] = true) →
    ∃ (t : State) (w : Nat → Column),
      exec (.keyexp k l) s = .next t ∧
      (∀ i, i < l / 4 → ∀ r : Lane, (w i).byte r = s.keyin[Fin.ofNat 32 (4 * i + r.val)]) ∧
      (∀ i, l / 4 ≤ i → i < 4 * (nr + 1) →
        w i = (w (i - l / 4)).xor
          (if i % (l / 4) = 0 then
            (subWord (rotWord (w (i - 1)))).xor ⟨rc (i / (l / 4)), 0, 0, 0⟩
          else if l / 4 = 8 ∧ i % (l / 4) = 4 then subWord (w (i - 1))
          else w (i - 1))) ∧
      SlotCompleted (.keyexp k l) k
        ⟨nr, (List.range (nr + 1)).map fun j => ⟨w (4 * j), w (4 * j + 1), w (4 * j + 2), w (4 * j + 3)⟩⟩ s t

/-- R275, R280, R423: any other length is the recoverable error INVALID_KEY_LENGTH, before any key byte is looked at;
with a valid length and an unwritten byte among KEYIN[0 .. L-1] the model stops with Unwritten. -/
def Obligations.KeyexpStops : Prop :=
  (∀ (k : Lane) (l : Nat) (s : State), l ∉ [16, 24, 32] →
    exec (.keyexp k l) s = .next { s with caps := latchedCaps s, status := 0x00000101 }) ∧
  ∀ (k : Lane) (l : Nat) (s : State) (j : Fin 32), l ∈ [16, 24, 32] → j.val < l → s.wki[j] = false →
    exec (.keyexp k l) s = .fault .unwritten

/-- R282 with R276: KEYINV of an empty slot raises SCHEDULE_EMPTY; of a filled one it completes, and slot K, which may
be SS itself, then holds the keys of SS in reverse order, the interior ones inverse-mixed. -/
def Obligations.KeyinvCommand : Prop :=
  ∀ (k ss : Lane) (s : State),
    ((s.ks.get ss).rounds = 0 →
      ∃ t, exec (.keyinv k ss) s = .next t ∧ Raised .scheduleEmpty (encode (.keyinv k ss)) s t) ∧
    ((s.ks.get ss).rounds ≠ 0 →
      ∃ (t : State) (q : Slot), exec (.keyinv k ss) s = .next t ∧ SlotCompleted (.keyinv k ss) k q s t ∧
        q.rounds = (s.ks.get ss).rounds ∧ q.rk.length = q.rounds + 1 ∧
        q.key 0 = (s.ks.get ss).key q.rounds ∧ q.key q.rounds = (s.ks.get ss).key 0 ∧
        ∀ j, 1 ≤ j → j < q.rounds → q.key j = imix ((s.ks.get ss).key (q.rounds - j)))

/-- R283: RKREAD from an empty slot raises SCHEDULE_EMPTY, with an index above ROUNDS it raises
ROUND_INDEX_OUT_OF_RANGE; otherwise it completes, the destination lane of KR (D = 0) or ST (D = 1) holds the round key
and is written, and every other lane, KEYIN, KS and RES are as they were. -/
def Obligations.RkreadCommand : Prop :=
  ∀ (dst : RegFile) (dl k : Lane) (ri : Nat) (s : State),
    ((s.ks.get k).rounds = 0 →
      ∃ t, exec (.rkread dst dl k ri) s = .next t ∧ Raised .scheduleEmpty (encode (.rkread dst dl k ri)) s t) ∧
    ((s.ks.get k).rounds ≠ 0 → (s.ks.get k).rounds < ri →
      ∃ t, exec (.rkread dst dl k ri) s = .next t ∧
        Raised .roundIndexOutOfRange (encode (.rkread dst dl k ri)) s t) ∧
    ((s.ks.get k).rounds ≠ 0 → ri ≤ (s.ks.get k).rounds →
      ∃ t, exec (.rkread dst dl k ri) s = .next t ∧ Completed (.rkread dst dl k ri) s t ∧
        (∀ l : Lane,
          t.kr.get l = (if dst = .kr ∧ l = dl then (s.ks.get k).key ri else s.kr.get l) ∧
          t.wkr.get l = (if dst = .kr ∧ l = dl then true else s.wkr.get l) ∧
          t.st.get l = (if dst = .st ∧ l = dl then (s.ks.get k).key ri else s.st.get l) ∧
          t.wst.get l = (if dst = .st ∧ l = dl then true else s.wst.get l)) ∧
        t.keyin = s.keyin ∧ t.wki = s.wki ∧ t.ks = s.ks ∧ t.res = s.res)

/-- R274, R270: an expanded schedule has Nr + 1 round keys; round key 0 is the first 16 bytes of the key, and round
key 1 holds the rest of a longer key.
The spec gives R270 and R274 as derived from its other rules. -/
def Obligations.FirstRoundKeys : Prop :=
  ∀ (key : List Byte) (nr : Nat), (key.length, nr) ∈ [(16, 10), (24, 12), (32, 14)] →
    (expand nr key).rounds = nr ∧ (expand nr key).rk.length = nr + 1 ∧
    (∀ j : Fin 16, ((expand nr key).key 0).byte j = key.getD j.val 0) ∧
    ∀ j : Fin 16, 16 + j.val < key.length → ((expand nr key).key 1).byte j = key.getD (16 + j.val) 0

/-- R277: the first and last keys of an inverse schedule are the last and first of the schedule, the round count is the
same, and the inverse of the inverse has the interior keys mixed twice.
The spec gives R277 as derived from its other rules. -/
def Obligations.InverseScheduleLaws : Prop :=
  ∀ q : Slot, q.rounds ≠ 0 →
    (invSchedule q).rounds = q.rounds ∧ (invSchedule q).key 0 = q.key q.rounds ∧
    (invSchedule q).key q.rounds = q.key 0 ∧
    (invSchedule (invSchedule q)).key 0 = q.key 0 ∧
    (invSchedule (invSchedule q)).key q.rounds = q.key q.rounds ∧
    ∀ j, 1 ≤ j → j < q.rounds → (invSchedule (invSchedule q)).key j = imix (imix (q.key j))

/-! ## Batched rounds -/

/-- R318 to R321 with R311: the batched standard commands complete; each lane goes through N standard rounds with the
consecutive keys RK[RI], RK[RI + 1], ... of its slot, in a FIN command the last round a final one. -/
def Obligations.StandardBatched : Prop :=
  ∀ (n : LaneCount) (sl : Lane) (key : KeySel) (ri cnt : Nat) (s : State),
    sl.val % n.count = 0 → SlotsFilled n sl key s → KeysInRange n sl key ri cnt s → LanesWritten n sl s →
    (∃ t, exec (.rounds n sl key ri cnt) s = .next t ∧
      LanesCompleted (.rounds n sl key ri cnt) n sl
        (fun l => roundsSeq (fun j x => (mix (shr (sub x))).xor ((s.ks.get (key.index l)).key (ri + j)))
          (s.st.get l) cnt) s t) ∧
    (∃ t, exec (.roundsfin n sl key ri cnt) s = .next t ∧
      LanesCompleted (.roundsfin n sl key ri cnt) n sl
        (fun l => roundsSeq (fun j x =>
            (if j + 1 = cnt then shr (sub x) else mix (shr (sub x))).xor ((s.ks.get (key.index l)).key (ri + j)))
          (s.st.get l) cnt) s t) ∧
    (∃ t, exec (.invrounds n sl key ri cnt) s = .next t ∧
      LanesCompleted (.invrounds n sl key ri cnt) n sl
        (fun l => roundsSeq (fun j x => (imix (isub (ishr x))).xor ((s.ks.get (key.index l)).key (ri + j)))
          (s.st.get l) cnt) s t) ∧
    (∃ t, exec (.invroundsfin n sl key ri cnt) s = .next t ∧
      LanesCompleted (.invroundsfin n sl key ri cnt) n sl
        (fun l => roundsSeq (fun j x =>
            (if j + 1 = cnt then isub (ishr x) else imix (isub (ishr x))).xor
              ((s.ks.get (key.index l)).key (ri + j)))
          (s.st.get l) cnt) s t)

/-- R322 to R325 with R311: the batched key-first commands, likewise. -/
def Obligations.KeyFirstBatched : Prop :=
  ∀ (n : LaneCount) (sl : Lane) (key : KeySel) (ri cnt : Nat) (s : State),
    sl.val % n.count = 0 → SlotsFilled n sl key s → KeysInRange n sl key ri cnt s → LanesWritten n sl s →
    (∃ t, exec (.roundskf n sl key ri cnt) s = .next t ∧
      LanesCompleted (.roundskf n sl key ri cnt) n sl
        (fun l => roundsSeq (fun j x => mix (shr (sub (x.xor ((s.ks.get (key.index l)).key (ri + j))))))
          (s.st.get l) cnt) s t) ∧
    (∃ t, exec (.roundskffin n sl key ri cnt) s = .next t ∧
      LanesCompleted (.roundskffin n sl key ri cnt) n sl
        (fun l => roundsSeq (fun j x =>
            if j + 1 = cnt then shr (sub (x.xor ((s.ks.get (key.index l)).key (ri + j))))
            else mix (shr (sub (x.xor ((s.ks.get (key.index l)).key (ri + j))))))
          (s.st.get l) cnt) s t) ∧
    (∃ t, exec (.invroundskf n sl key ri cnt) s = .next t ∧
      LanesCompleted (.invroundskf n sl key ri cnt) n sl
        (fun l => roundsSeq (fun j x => imix (isub (ishr (x.xor ((s.ks.get (key.index l)).key (ri + j))))))
          (s.st.get l) cnt) s t) ∧
    (∃ t, exec (.invroundskffin n sl key ri cnt) s = .next t ∧
      LanesCompleted (.invroundskffin n sl key ri cnt) n sl
        (fun l => roundsSeq (fun j x =>
            if j + 1 = cnt then isub (ishr (x.xor ((s.ks.get (key.index l)).key (ri + j))))
            else imix (isub (ishr (x.xor ((s.ks.get (key.index l)).key (ri + j))))))
          (s.st.get l) cnt) s t)

/-- R326 to R329 with R311: the batched no-key commands complete whatever the slots hold. -/
def Obligations.NoKeyBatched : Prop :=
  ∀ (n : LaneCount) (sl : Lane) (cnt : Nat) (s : State), sl.val % n.count = 0 → LanesWritten n sl s →
    (∃ t, exec (.roundsnk n sl cnt) s = .next t ∧
      LanesCompleted (.roundsnk n sl cnt) n sl
        (fun l => roundsSeq (fun _ x => mix (shr (sub x))) (s.st.get l) cnt) s t) ∧
    (∃ t, exec (.roundsnkfin n sl cnt) s = .next t ∧
      LanesCompleted (.roundsnkfin n sl cnt) n sl
        (fun l => roundsSeq (fun j x => if j + 1 = cnt then shr (sub x) else mix (shr (sub x)))
          (s.st.get l) cnt) s t) ∧
    (∃ t, exec (.invroundsnk n sl cnt) s = .next t ∧
      LanesCompleted (.invroundsnk n sl cnt) n sl
        (fun l => roundsSeq (fun _ x => imix (isub (ishr x))) (s.st.get l) cnt) s t) ∧
    (∃ t, exec (.invroundsnkfin n sl cnt) s = .next t ∧
      LanesCompleted (.invroundsnkfin n sl cnt) n sl
        (fun l => roundsSeq (fun j x => if j + 1 = cnt then isub (ishr x) else imix (isub (ishr x)))
          (s.st.get l) cnt) s t)

/-- R314, R426: the checks of a keyed batched command after the lane start: an empty slot of any lane, then a last key
index above any lane's ROUNDS, then an unwritten lane. -/
def Obligations.BatchedChecks : Prop :=
  ∀ (ord : Ord) (inv fin : Bool) (n : LaneCount) (sl : Lane) (key : KeySel) (ri cnt : Nat) (s : State),
    ord ≠ .nk → sl.val % n.count = 0 →
    (¬ SlotsFilled n sl key s →
      ∃ t, exec (roundsInstr ord inv fin n sl key ri cnt) s = .next t ∧
        Raised .scheduleEmpty (encode (roundsInstr ord inv fin n sl key ri cnt)) s t) ∧
    (SlotsFilled n sl key s → ¬ KeysInRange n sl key ri cnt s →
      ∃ t, exec (roundsInstr ord inv fin n sl key ri cnt) s = .next t ∧
        Raised .roundIndexOutOfRange (encode (roundsInstr ord inv fin n sl key ri cnt)) s t) ∧
    (SlotsFilled n sl key s → KeysInRange n sl key ri cnt s → ¬ LanesWritten n sl s →
      exec (roundsInstr ord inv fin n sl key ri cnt) s = .fault .unwritten)

/-- R315: a batched command that completes leaves in ST what its single-round commands leave, which all complete,
executed one after the other, each with RK[RI + j] of lane i's slot in key register i.
The spec gives R315 as derived from its other rules. -/
def Obligations.BatchedEqualsSequential : Prop :=
  ∀ (ord : Ord) (inv fin : Bool) (n : LaneCount) (sl : Lane) (key : KeySel) (ri cnt : Nat) (s t : State),
    exec (roundsInstr ord inv fin n sl key ri cnt) s = .next t → causeField t.status = 0 →
    ∃ u, AllComplete (sequentialRounds ord inv fin n sl key ri cnt) s u ∧ u.st = t.st ∧ u.wst = t.wst

/-! ## Whole ciphers -/

/-- R330: ENCRYPT completes, and each lane holds the AES cipher of its block under the schedule of its slot. -/
def Obligations.EncryptCommand : Prop :=
  ∀ (n : LaneCount) (sl : Lane) (key : KeySel) (v : Variant) (s : State),
    sl.val % n.count = 0 → SlotsFilled n sl key s → VariantFits n sl key v s → LanesWritten n sl s →
    ∃ t, exec (.encrypt n sl key v) s = .next t ∧
      LanesCompleted (.encrypt n sl key v) n sl
        (fun l =>
          let q := s.ks.get (key.index l)
          (shr (sub (roundsSeq (fun j x => (mix (shr (sub x))).xor (q.key (j + 1)))
            ((s.st.get l).xor (q.key 0)) (q.rounds - 1)))).xor (q.key q.rounds)) s t

/-- R331: DECRYPT completes, and each lane holds the equivalent inverse cipher of its block under the keys of its slot
as they stand. -/
def Obligations.DecryptCommand : Prop :=
  ∀ (n : LaneCount) (sl : Lane) (key : KeySel) (v : Variant) (s : State),
    sl.val % n.count = 0 → SlotsFilled n sl key s → VariantFits n sl key v s → LanesWritten n sl s →
    ∃ t, exec (.decrypt n sl key v) s = .next t ∧
      LanesCompleted (.decrypt n sl key v) n sl
        (fun l =>
          let q := s.ks.get (key.index l)
          (isub (ishr (roundsSeq (fun j x => (imix (isub (ishr x))).xor (q.key (j + 1)))
            ((s.st.get l).xor (q.key 0)) (q.rounds - 1)))).xor (q.key q.rounds)) s t

/-- R330, R331, R426: the checks of ENCRYPT and DECRYPT after the lane start: an empty slot of any lane, then a round
count that is not that of the variant V names, then an unwritten lane. -/
def Obligations.CipherChecks : Prop :=
  ∀ (n : LaneCount) (sl : Lane) (key : KeySel) (v : Variant) (s : State), sl.val % n.count = 0 →
    ∀ i ∈ [Instr.encrypt n sl key v, .decrypt n sl key v],
      (¬ SlotsFilled n sl key s → ∃ t, exec i s = .next t ∧ Raised .scheduleEmpty (encode i) s t) ∧
      (SlotsFilled n sl key s → ¬ VariantFits n sl key v s →
        ∃ t, exec i s = .next t ∧ Raised .roundCountMismatch (encode i) s t) ∧
      (SlotsFilled n sl key s → VariantFits n sl key v s → ¬ LanesWritten n sl s →
        exec i s = .fault .unwritten)

/-- R332: for every key of 16, 24 or 32 bytes, with its schedule in slot a and the inverse schedule in slot b, ENCRYPT
with a then DECRYPT with b complete and give back every lane; and so do the batched forms, with the first key of each
schedule read into key register r. -/
def Obligations.RoundTrip : Prop :=
  ∀ (n : LaneCount) (sl a b r : Lane) (v : Variant) (key : List Byte) (nr : Nat) (s : State),
    (key.length, nr) ∈ [(16, 10), (24, 12), (32, 14)] → (v.expected = none ∨ v.expected = some nr) →
    s.ks.get a = expand nr key → s.ks.get b = invSchedule (s.ks.get a) →
    sl.val % n.count = 0 → LanesWritten n sl s →
    (∃ t, AllComplete [.encrypt n sl (.broadcast a) v, .decrypt n sl (.broadcast b) v] s t ∧ t.st = s.st) ∧
    (∃ t,
      AllComplete
        [.rkread .kr r a 0, .addroundkey n sl (.broadcast r), .roundsfin n sl (.broadcast a) 1 nr,
          .rkread .kr r b 0, .addroundkey n sl (.broadcast r), .invroundsfin n sl (.broadcast b) 1 nr] s t ∧
        t.st = s.st)

/-- R333: ENCRYPT with slot a leaves in ST what ADDROUNDKEY with RK[0] and ROUNDSFIN from index 1 leave, and DECRYPT
what ADDROUNDKEY and INVROUNDSFIN leave.
The spec gives R333 as derived from its other rules. -/
def Obligations.CipherAsComposition : Prop :=
  ∀ (n : LaneCount) (sl a r : Lane) (v : Variant) (s t : State),
    (exec (.encrypt n sl (.broadcast a) v) s = .next t → causeField t.status = 0 →
      ∃ u, AllComplete
          [.rkread .kr r a 0, .addroundkey n sl (.broadcast r),
            .roundsfin n sl (.broadcast a) 1 (s.ks.get a).rounds] s u ∧ u.st = t.st) ∧
    (exec (.decrypt n sl (.broadcast a) v) s = .next t → causeField t.status = 0 →
      ∃ u, AllComplete
          [.rkread .kr r a 0, .addroundkey n sl (.broadcast r),
            .invroundsfin n sl (.broadcast a) 1 (s.ks.get a).rounds] s u ∧ u.st = t.st)

/-! ## Capabilities and paths -/

/-- R360 to R362: `exec` of each system command completes from every state. CAPINIT changes CAPS (the latch) and STATUS;
QHWAVAIL also writes RES, 1 when HW1 or HWN is set; QLANES also writes RES, the preferred lane width. A HALTED engine
refuses the ISSUE in the port (R96); that `exec` answers there too is the model's (log entry 13, DEDUCED). -/
def Obligations.SystemCommands : Prop :=
  ∀ s : State,
    exec .capinit s = .next { s with caps := latchedCaps s, status := 0 } ∧
    exec .qhwavail s =
      .next { s with
        caps := latchedCaps s, status := 0
        res := if (latchedCaps s).getLsbD 1 || (latchedCaps s).getLsbD 2 then 1 else 0 } ∧
    exec .qlanes s =
      .next { s with
        caps := latchedCaps s, status := 0
        res :=
          if (latchedCaps s).getLsbD 2 && (latchedCaps s).getLsbD 4 then 4
          else if (latchedCaps s).getLsbD 2 && (latchedCaps s).getLsbD 3 then 2
          else 1 }

/-- R354, R159: STATUS.PATH after a completed command. It is 2 exactly when an eligible command of 2 or 4 lanes has the
N-way flag and the width flag of its lane count, 1 exactly when an eligible command has not that but has the
single-block flag, else 0; and 0 after a fault. -/
def Obligations.PathOfCompleted : Prop :=
  ∀ (i : Instr) (s t : State), exec i s = .next t →
    let eligible := i.mnemonic.cls.datapath = true ∧ i.mnemonic ∈ s.config.hwEligible
    let nWayPath := t.caps.getLsbD 2 = true ∧
      (i.laneCount? = some .two ∧ t.caps.getLsbD 3 = true ∨ i.laneCount? = some .four ∧ t.caps.getLsbD 4 = true)
    (causeField t.status = 0 →
      (eligible → nWayPath → pathField t.status = 2) ∧
      (eligible → ¬ nWayPath → t.caps.getLsbD 1 = true → pathField t.status = 1) ∧
      (eligible → ¬ nWayPath → t.caps.getLsbD 1 = false → pathField t.status = 0) ∧
      (¬ eligible → pathField t.status = 0)) ∧
    (causeField t.status ≠ 0 → pathField t.status = 0)

/-- R363: the dispatch table under the default HW_ELIGIBLE: for each probe (HW1, HWN, VW2, VW4), CAPS, the two query
results, and the paths of ROUND s0, kr0, ROUND.L2 s0, kr, ROUND.L4 s0, kr and ROUNDKF.L4 s0, kr.
The spec gives R363 as derived from its other rules. -/
def Obligations.DispatchTable : Prop :=
  ∀ p ∈ ([(⟨false, false, false, false⟩, 0x01, 0, 1, [0, 0, 0, 0]),
      (⟨false, false, false, true⟩, 0x11, 0, 1, [0, 0, 0, 0]), (⟨false, false, true, false⟩, 0x09, 0, 1, [0, 0, 0, 0]),
      (⟨false, false, true, true⟩, 0x19, 0, 1, [0, 0, 0, 0]), (⟨false, true, false, false⟩, 0x05, 1, 1, [0, 0, 0, 0]),
      (⟨false, true, false, true⟩, 0x15, 1, 4, [0, 0, 2, 0]), (⟨false, true, true, false⟩, 0x0D, 1, 2, [0, 2, 0, 0]),
      (⟨false, true, true, true⟩, 0x1D, 1, 4, [0, 2, 2, 0])] ++
    [(⟨true, false, false, false⟩, 0x03, 1, 1, [1, 1, 1, 0]), (⟨true, false, false, true⟩, 0x13, 1, 1, [1, 1, 1, 0]),
      (⟨true, false, true, false⟩, 0x0B, 1, 1, [1, 1, 1, 0]), (⟨true, false, true, true⟩, 0x1B, 1, 1, [1, 1, 1, 0]),
      (⟨true, true, false, false⟩, 0x07, 1, 1, [1, 1, 1, 0]), (⟨true, true, false, true⟩, 0x17, 1, 4, [1, 1, 2, 0]),
      (⟨true, true, true, false⟩, 0x0F, 1, 2, [1, 2, 1, 0]), (⟨true, true, true, true⟩, 0x1F, 1, 4, [1, 2, 2, 0])] :
      List (Probe × Word × Word × Word × List (BitVec 2))),
    ∀ s : State, s.caps.getLsbD 0 = false → s.config = ⟨p.1, Config.defaultEligible⟩ →
      (∃ t, exec .qhwavail s = .next t ∧ t.caps = p.2.1 ∧ t.res = p.2.2.1) ∧
      (∃ t, exec .qlanes s = .next t ∧ t.caps = p.2.1 ∧ t.res = p.2.2.2.1) ∧
      [Instr.round .one 0 (.broadcast 0), .round .two 0 .perLane, .round .four 0 .perLane,
        .roundkf .four 0 .perLane].map (fun i => (pathOf i (latch s)).code) = p.2.2.2.2

/-- R356: two states that hold the same data, whatever their PROBE, HW_ELIGIBLE, CAPS and STATUS, execute a command to
the same data, the same outcome and the same cause. RES, which the queries take from CAPS (R361, R362), is the same
whenever the latched CAPS is. -/
def Obligations.PathIndependence : Prop :=
  ∀ (i : Instr) (s t : State), SameData s t → s.res = t.res →
    outcomesRelated
      (fun a b => SameData a b ∧ causeField a.status = causeField b.status ∧
        (i ∉ [Instr.qhwavail, .qlanes] ∨ latchedCaps s = latchedCaps t → a.res = b.res))
      (exec i s) (exec i t)

/-- R350 to R352, R81: CAPS after a step. An accepted ISSUE, of a legal or an illegal word, and an accepted READ_CAPS
latch it when it has not been latched; RESET clears it; nothing else changes it.
The spec gives R81 as derived from its other rules. -/
def Obligations.CapsTriggers : Prop :=
  ∀ (s t : State) (op : HostOp) (rest : List HostOp), s.port = op :: rest → step s = .next t →
    t.caps = match op with
      | .reset => 0
      | .issue _ => if s.caps.getLsbD 0 then s.caps else capsWord s.config.probe
      | .readCaps => if s.caps.getLsbD 0 then s.caps else capsWord s.config.probe
      | .writeSt _ _ => s.caps
      | .readSt _ => s.caps
      | .writeKr _ _ => s.caps
      | .writeKeyin _ => s.caps
      | .readKr _ => s.caps
      | .readStatus => s.caps
      | .readFcmd => s.caps
      | .readRes => s.caps

/-! ## Faults and frames -/

/-- R152: a datapath command whose first lane is not a multiple of its lane count raises LANE_OUT_OF_RANGE, whatever
its slots, keys and lanes are. -/
def Obligations.LaneStart : Prop :=
  ∀ (i : Instr) (n : LaneCount) (sl : Lane) (s : State), i.laneCount? = some n → i.start? = some sl →
    sl.val % n.count ≠ 0 → ∃ t, exec i s = .next t ∧ Raised .laneOutOfRange (encode i) s t

/-- R157, R428: a command of class T, TK or BN whose lane start is right stops with Unwritten when one of its lanes, or
for class TK one of its key registers, has not been written. -/
def Obligations.UnwrittenOperands : Prop :=
  ∀ (i : Instr) (n : LaneCount) (sl : Lane) (s : State), i.laneCount? = some n → i.start? = some sl →
    sl.val % n.count = 0 → i.mnemonic.cls ∈ [Class.t, .tk, .bn] →
    (¬ LanesWritten n sl s ∨ ∃ key, keyOf i = some key ∧ ¬ KeysWritten n sl key s) →
    exec i s = .fault .unwritten

/-- R157 to R159, R422 to R424, R429: a command completes with the STATUS of completion, having read nothing unwritten,
or raises a cause that its class can raise and changes nothing but STATUS, CAPS by the latch and, for a Fatal, FCMD, or
stops with Unwritten, which only a class does that reads operands with a written tag, and only on a lane, key register
or key byte that the command reads and that has not been written; `exec` never refuses it (log entry 13).
The spec gives R422 and R429 as derived from its other rules. -/
def Obligations.ExecOutcomes : Prop :=
  ∀ (i : Instr) (s : State),
    (∃ t, exec i s = .next t ∧ Completed i s t ∧ ¬ ReadsUnwritten i s) ∨
    (∃ t, ∃ c ∈ causesOf i.mnemonic.cls, exec i s = .next t ∧ Raised c (encode i) s t) ∨
    (readsTagged i.mnemonic.cls = true ∧ ReadsUnwritten i s ∧ exec i s = .fault .unwritten)

/-- R47, R151, R158: what each command may write. KEYIN and its tags by none; KR by RKREAD with D = 0 alone, and there
one lane; a slot by KEYEXP and KEYINV alone, the one they name; ST by the datapath commands, in their lanes, and by
RKREAD with D = 1, in one lane; RES by the queries alone; FCMD only with a Fatal.
The spec gives R47 and R151 as derived from its other rules. -/
def Obligations.AccessSummary : Prop :=
  ∀ (i : Instr) (s t : State), exec i s = .next t →
    t.keyin = s.keyin ∧ t.wki = s.wki ∧ t.config = s.config ∧ t.port = s.port ∧ t.reply = s.reply ∧
    t.resets = s.resets ∧
    (fatalBit t.status = false → t.fcmd = s.fcmd) ∧
    (i ∉ [Instr.qhwavail, .qlanes] → t.res = s.res) ∧
    (∀ l : Lane, (∀ k ri, i ≠ .rkread .kr l k ri) → t.kr.get l = s.kr.get l ∧ t.wkr.get l = s.wkr.get l) ∧
    (∀ k : Lane, (∀ l, i ≠ .keyexp k l) → (∀ ss, i ≠ .keyinv k ss) → t.ks.get k = s.ks.get k) ∧
    ∀ l : Lane, (∀ k ri, i ≠ .rkread .st l k ri) →
      (∀ n sl, i.laneCount? = some n → i.start? = some sl → inLanes n sl l = false) →
      t.st.get l = s.st.get l ∧ t.wst.get l = s.wst.get l

/-- R161: no data value makes a command fault: with the same written tags and the same round counts of the slots, a
command has the same outcome and the same cause, whatever the lanes, key registers, key bytes and round keys hold. -/
def Obligations.NoDataFaults : Prop :=
  ∀ (i : Instr) (s t : State), s.wst = t.wst → s.wkr = t.wkr → s.wki = t.wki →
    (∀ k : Lane, (s.ks.get k).rounds = (t.ks.get k).rounds) →
    outcomesRelated (fun a b => causeField a.status = causeField b.status) (exec i s) (exec i t)

/-- R153: the result of a lane depends only on that lane, on the key register and the slot its key selection names,
and on the command. -/
def Obligations.LaneIndependence : Prop :=
  ∀ (i : Instr) (n : LaneCount) (sl l : Lane) (s t a b : State), i.laneCount? = some n → i.start? = some sl →
    inLanes n sl l = true → s.st.get l = t.st.get l →
    (∀ key, keyOf i = some key →
      s.kr.get (key.index l) = t.kr.get (key.index l) ∧ s.ks.get (key.index l) = t.ks.get (key.index l)) →
    exec i s = .next a → exec i t = .next b → causeField a.status = 0 → causeField b.status = 0 →
    a.st.get l = b.st.get l

/-- R155: a datapath command that completes equals its single-lane forms executed for its lanes in any order, which all
complete, but for STATUS.PATH.
The spec gives R155 as derived from its other rules. -/
def Obligations.LaneCountEquivalence : Prop :=
  ∀ (i : Instr) (n : LaneCount) (sl : Lane) (s t : State) (order : List Lane),
    i.laneCount? = some n → i.start? = some sl → exec i s = .next t → causeField t.status = 0 →
    order.Perm (lanes n sl) →
    ∃ u, AllComplete (order.filterMap fun l => singleLane l i) s u ∧
      { u with status := t.status } = t ∧ causeField u.status = 0 ∧ errBit u.status = false ∧
      fatalBit u.status = false

/-! ## The port -/

/-- R94, R150, R162: a step that takes an ISSUE of a word that decodes to a command, not in HALTED, is the execution of
that command, with the operation taken off the port and the reply cleared (the model's own fields, log entry 5). -/
def Obligations.StepRunsDecoded : Prop :=
  ∀ (s : State) (cw : Word) (rest : List HostOp) (i : Instr), s.status.getLsbD 1 = false →
    s.port = .issue cw :: rest → decode cw = .ok i →
    step s = exec i { s with port := rest, reply := .none }

/-- R107, R351, R424: an ISSUE of a word that does not decode raises ILLEGAL_COMMAND with FCMD the word, after the
latch, and changes nothing else. -/
def Obligations.IllegalWord : Prop :=
  ∀ (s : State) (cw : Word) (rest : List HostOp) (why : Illegal), s.status.getLsbD 1 = false →
    s.port = .issue cw :: rest → decode cw = .error why →
    step s = .next { s with
      port := rest, reply := .none, caps := latchedCaps s, status := 0x00001002, fcmd := cw }

/-- R86, R88, R89: WRITE_ST and WRITE_KR replace one lane and set its tag; WRITE_KEYIN replaces the first bytes and
sets their tags; nothing else changes. -/
def Obligations.PortWrites : Prop :=
  ∀ (s : State) (rest : List HostOp), s.status.getLsbD 1 = false →
    (∀ (l : Lane) (v : Block), s.port = .writeSt l.val v :: rest →
      ∃ t, step s = .next t ∧
        t = { s with port := rest, reply := .none, st := t.st, wst := t.wst } ∧
        ∀ m : Lane, t.st.get m = (if m = l then v else s.st.get m) ∧
          t.wst.get m = (if m = l then true else s.wst.get m)) ∧
    (∀ (l : Lane) (v : Block), s.port = .writeKr l.val v :: rest →
      ∃ t, step s = .next t ∧
        t = { s with port := rest, reply := .none, kr := t.kr, wkr := t.wkr } ∧
        ∀ m : Lane, t.kr.get m = (if m = l then v else s.kr.get m) ∧
          t.wkr.get m = (if m = l then true else s.wkr.get m)) ∧
    ∀ b : List Byte, b.length ≤ 32 → s.port = .writeKeyin b :: rest →
      ∃ t, step s = .next t ∧
        t = { s with port := rest, reply := .none, keyin := t.keyin, wki := t.wki } ∧
        ∀ j : Fin 32, t.keyin[j] = (if j.val < b.length then b.getD j.val 0 else s.keyin[j]) ∧
          t.wki[j] = (if j.val < b.length then true else s.wki[j])

/-- R87, R90 to R92, R76: a read replies with the lane or register and changes nothing else; READ_CAPS latches first;
a read of an unwritten lane stops with Unwritten.
The spec gives R76 as derived from its other rules. -/
def Obligations.PortReads : Prop :=
  ∀ (s : State) (rest : List HostOp), s.status.getLsbD 1 = false →
    (∀ l : Lane, s.port = .readSt l.val :: rest →
      (s.wst.get l = true → step s = .next { s with port := rest, reply := .block (s.st.get l) }) ∧
      (s.wst.get l = false → step s = .fault .unwritten)) ∧
    (∀ l : Lane, s.port = .readKr l.val :: rest →
      (s.wkr.get l = true → step s = .next { s with port := rest, reply := .block (s.kr.get l) }) ∧
      (s.wkr.get l = false → step s = .fault .unwritten)) ∧
    (s.port = .readCaps :: rest →
      step s = .next { s with port := rest, caps := latchedCaps s, reply := .word (latchedCaps s) }) ∧
    (s.port = .readStatus :: rest → step s = .next { s with port := rest, reply := .word s.status }) ∧
    (s.port = .readFcmd :: rest → step s = .next { s with port := rest, reply := .word s.fcmd }) ∧
    (s.port = .readRes :: rest → step s = .next { s with port := rest, reply := .word s.res })

/-- R93: a lane index above 3, or a WRITE_KEYIN longer than 32 bytes, raises LANE_OUT_OF_RANGE with FCMD 0; nothing
else changes, and nothing is latched. -/
def Obligations.PortBounds : Prop :=
  ∀ (s : State) (op : HostOp) (rest : List HostOp), s.status.getLsbD 1 = false → s.port = op :: rest →
    ((∃ i v, 3 < i ∧ (op = .writeSt i v ∨ op = .writeKr i v)) ∨ (∃ i, 3 < i ∧ (op = .readSt i ∨ op = .readKr i)) ∨
      ∃ b, 32 < b.length ∧ op = .writeKeyin b) →
    step s = .next { s with port := rest, reply := .none, status := 0x00001102, fcmd := 0 }

/-- R95, R470: RESET is accepted in every state and leaves every tag cleared, every slot empty, and CAPS, STATUS, FCMD
and RES 0; and so is the state after power-on. -/
def Obligations.ResetOperation : Prop :=
  (∀ (s : State) (rest : List HostOp), s.port = .reset :: rest →
    ∃ t, step s = .next t ∧ t.config = s.config ∧ t.port = rest ∧
      (∀ l : Lane, t.wst.get l = false ∧ t.wkr.get l = false ∧ (t.ks.get l).rounds = 0) ∧
      (∀ j : Fin 32, t.wki[j] = false) ∧ t.caps = 0 ∧ t.status = 0 ∧ t.fcmd = 0 ∧ t.res = 0) ∧
  (∀ l : Lane, State.reset.wst.get l = false ∧ State.reset.wkr.get l = false ∧
    (State.reset.ks.get l).rounds = 0) ∧
  (∀ j : Fin 32, State.reset.wki[j] = false) ∧ State.reset.caps = 0 ∧ State.reset.status = 0 ∧
  State.reset.fcmd = 0 ∧ State.reset.res = 0

/-- R96, R427: in HALTED every operation but RESET, READ_STATUS and READ_FCMD is refused; these two reads reply as
ever. -/
def Obligations.HaltedOperations : Prop :=
  ∀ (s : State) (op : HostOp) (rest : List HostOp), s.status.getLsbD 1 = true → s.port = op :: rest →
    (op ≠ .reset → op ≠ .readStatus → op ≠ .readFcmd → step s = .refused .halted) ∧
    (op = .readStatus → step s = .next { s with port := rest, reply := .word s.status }) ∧
    (op = .readFcmd → step s = .next { s with port := rest, reply := .word s.fcmd })

/-- R427: a run from a HALTED state in which no RESET is pending never changes the engine: STATUS and FCMD keep the
first Fatal's values, and every other element keeps its own. -/
def Obligations.HaltedPersists : Prop :=
  ∀ s t : State, s.status.getLsbD 1 = true → HostOp.reset ∉ s.port → Reaches s t →
    t = { s with port := t.port, reply := t.reply }

/-- R79, R80, R284: a slot that no host resets or names as the destination of a KEYEXP or KEYINV holds the same
schedule in every state of every run, whatever order the port accepts the hosts' operations in.
The spec gives R80 and R284 as derived from its other rules. -/
def Obligations.SharedSchedule : Prop :=
  ∀ (s t : State) (hosts : List (List HostOp)) (order : List HostOp) (k : Lane), Interleaves hosts order →
    (∀ h ∈ hosts, ∀ op ∈ h, ¬ writesSlot k op) → Reaches { s with port := order } t →
    t.ks.get k = s.ks.get k

/-- R78, R472: a step takes the next pending operation and no other; it does take every write, every register read,
every RESET, and every ISSUE of a word that does not decode, that the engine accepts (R427); with none pending the engine
does nothing (that an idle engine's step gives the same state is the model's choice, log entry 5). -/
def Obligations.PortOrder : Prop :=
  (∀ s : State, s.port = [] → step s = .next s) ∧
  (∀ (s t : State) (op : HostOp) (rest : List HostOp), s.port = op :: rest → step s = .next t → t.port = rest) ∧
  ∀ (s : State) (op : HostOp) (rest : List HostOp), s.port = op :: rest →
    (s.status.getLsbD 1 = false ∨ op ∈ [HostOp.reset, .readStatus, .readFcmd]) →
    (∀ l, op ≠ .readSt l) → (∀ l, op ≠ .readKr l) → (∀ cw i, op = .issue cw → decode cw ≠ .ok i) →
    ∃ t, step s = .next t

/-! ## The invariant, and what cannot be observed -/

/-- R35, R37 to R40, R470: the invariant holds after RESET. -/
def Obligations.ResetInv : Prop := State.reset.Inv

/-- R35, R37 to R41: every step keeps the invariant: each slot is empty or holds 11, 13 or 15 round keys for 10, 12 or
14 rounds; CAPS is 0 or the latched probe; STATUS is one of those the causes and paths admit; FCMD is 0 unless HALTED;
RES is 0, 1, 2 or 4. -/
def Obligations.StepKeepsInv : Prop :=
  ∀ s t : State, s.Inv → step s = .next t → t.Inv

/-- R32, R471: what an unwritten lane or byte holds shows in no step: two states that agree on everything else take steps
of the same outcome (the same stop, where one reads such storage, R428) and, where that is a next state, agree again.
Where the model keeps that storage, a free value, is its choice (log entry 2). -/
def Obligations.UnwrittenUnobservable : Prop :=
  ∀ s t : State, SameWritten s t → outcomesRelated SameWritten (step s) (step t)

end
end

