-- ==== Sys2Proof/Laws/Bytes.lean ====
section
/-!
SUPPORT. Laws of files of four, Columns and Blocks: reading after writing, and equality entry by entry and
byte by byte.
-/

namespace Sys2Proof

namespace Quad

variable {α : Type}

@[simp] theorem get_ofFn (f : Lane → α) (i : Lane) : (ofFn f).get i = f i := by
  fin_cases i <;> rfl

@[ext] theorem ext_get {a b : Quad α} (h : ∀ i : Lane, a.get i = b.get i) : a = b := by
  cases a; cases b
  simp only [mk.injEq]
  exact ⟨h 0, h 1, h 2, h 3⟩

@[simp] theorem ofFn_get (q : Quad α) : (ofFn fun i => q.get i) = q := by
  ext i; simp

theorem get_set (q : Quad α) (i j : Lane) (v : α) : (q.set i v).get j = if j = i then v else q.get j := by
  simp [set]

@[simp] theorem get_set_same (q : Quad α) (i : Lane) (v : α) : (q.set i v).get i = v := by
  simp [get_set]

theorem get_set_other (q : Quad α) {i j : Lane} (h : j ≠ i) (v : α) : (q.set i v).get j = q.get j := by
  simp [get_set, h]

@[simp] theorem mem_indices (i : Lane) : i ∈ indices := by
  fin_cases i <;> decide

end Quad

namespace Column

@[ext] theorem ext_byte {a b : Column} (h : ∀ r : Lane, a.byte r = b.byte r) : a = b := by
  cases a; cases b
  simp only [mk.injEq]
  exact ⟨h 0, h 1, h 2, h 3⟩

@[simp] theorem byte_map (f : Byte → Byte) (c : Column) (r : Lane) : (c.map f).byte r = f (c.byte r) := by
  fin_cases r <;> rfl

@[simp] theorem byte_xor (a b : Column) (r : Lane) : (a.xor b).byte r = a.byte r ^^^ b.byte r := by
  fin_cases r <;> rfl

end Column

namespace Block

@[ext] theorem ext_col {a b : Block} (h : ∀ c : Lane, a.col c = b.col c) : a = b := by
  cases a; cases b
  simp only [mk.injEq]
  exact ⟨h 0, h 1, h 2, h 3⟩

@[simp] theorem byte_ofFn (f : Fin 16 → Byte) (j : Fin 16) : (ofFn f).byte j = f j := by
  fin_cases j <;> rfl

theorem ext_byte {a b : Block} (h : ∀ j : Fin 16, a.byte j = b.byte j) : a = b := by
  refine ext_col fun c => Column.ext_byte fun r => ?_
  have := h ⟨4 * c.val + r.val, by omega⟩
  fin_cases c <;> fin_cases r <;> exact this

@[simp] theorem byte_map (f : Byte → Byte) (b : Block) (j : Fin 16) : (b.map f).byte j = f (b.byte j) := by
  fin_cases j <;> rfl

@[simp] theorem byte_xor (a b : Block) (j : Fin 16) : (a.xor b).byte j = a.byte j ^^^ b.byte j := by
  fin_cases j <;> rfl

@[simp] theorem col_mapCols (f : Column → Column) (b : Block) (c : Lane) : (b.mapCols f).col c = f (b.col c) := by
  fin_cases c <;> rfl

@[simp] theorem col_xor (a b : Block) (c : Lane) : (a.xor b).col c = (a.col c).xor (b.col c) := by
  fin_cases c <;> rfl

@[simp] theorem byte_zero (j : Fin 16) : zero.byte j = 0 := by
  simp [zero]

theorem xor_assoc (a b c : Block) : (a.xor b).xor c = a.xor (b.xor c) := by
  apply ext_byte; intro j; simp [BitVec.xor_assoc]

theorem xor_comm (a b : Block) : a.xor b = b.xor a := by
  apply ext_byte; intro j; simp [BitVec.xor_comm]

@[simp] theorem xor_self (a : Block) : a.xor a = zero := by
  apply ext_byte; intro j; simp

@[simp] theorem xor_zero (a : Block) : a.xor zero = a := by
  apply ext_byte; intro j; simp

@[simp] theorem xor_xor_cancel (a b : Block) : (a.xor b).xor b = a := by
  rw [xor_assoc, xor_self, xor_zero]

end Block

end Sys2Proof
end

