-- ==== Sys2Proof/Laws/Encoding.lean ====
section
/-!
SUPPORT. Laws of the encoding: each field of a word made by `fields` reads back, a word is made of its fields,
each code of R103 has its meaning, and the opcode map names each mnemonic by its opcode.
-/

namespace Sys2Proof

theorem toNat_append_add {v w : Nat} (a : BitVec v) (b : BitVec w) :
    (a ++ b).toNat = a.toNat * 2 ^ w + b.toNat := by
  rw [BitVec.toNat_append, ← Nat.shiftLeft_add_eq_or_of_lt b.isLt, Nat.shiftLeft_eq]

section Fields

variable (op : BitVec 8) (ln sl : BitVec 2) (b : BitVec 1) (k : BitVec 2) (ri : BitVec 4) (x : BitVec 13)

theorem toNat_fields : (fields op ln sl b k ri x).toNat =
    op.toNat * 2 ^ 24 + ln.toNat * 2 ^ 22 + sl.toNat * 2 ^ 20 + b.toNat * 2 ^ 19 + k.toNat * 2 ^ 17 +
      ri.toNat * 2 ^ 13 + x.toNat := by
  simp only [fields, toNat_append_add]
  omega

@[simp] theorem opField_fields : opField (fields op ln sl b k ri x) = op := by
  apply BitVec.eq_of_toNat_eq
  simp only [opField, BitVec.extractLsb'_toNat, toNat_fields, Nat.shiftRight_eq_div_pow]
  omega

@[simp] theorem lnField_fields : lnField (fields op ln sl b k ri x) = ln := by
  apply BitVec.eq_of_toNat_eq
  simp only [lnField, BitVec.extractLsb'_toNat, toNat_fields, Nat.shiftRight_eq_div_pow]
  omega

@[simp] theorem slField_fields : slField (fields op ln sl b k ri x) = sl := by
  apply BitVec.eq_of_toNat_eq
  simp only [slField, BitVec.extractLsb'_toNat, toNat_fields, Nat.shiftRight_eq_div_pow]
  omega

@[simp] theorem bField_fields : bField (fields op ln sl b k ri x) = b := by
  apply BitVec.eq_of_toNat_eq
  simp only [bField, BitVec.extractLsb'_toNat, toNat_fields, Nat.shiftRight_eq_div_pow]
  omega

@[simp] theorem kField_fields : kField (fields op ln sl b k ri x) = k := by
  apply BitVec.eq_of_toNat_eq
  simp only [kField, BitVec.extractLsb'_toNat, toNat_fields, Nat.shiftRight_eq_div_pow]
  omega

@[simp] theorem riField_fields : riField (fields op ln sl b k ri x) = ri := by
  apply BitVec.eq_of_toNat_eq
  simp only [riField, BitVec.extractLsb'_toNat, toNat_fields, Nat.shiftRight_eq_div_pow]
  omega

/-- X, bits 12:0. -/
theorem xField_fields : (fields op ln sl b k ri x).extractLsb' 0 13 = x := by
  apply BitVec.eq_of_toNat_eq
  simp only [BitVec.extractLsb'_toNat, toNat_fields, Nat.shiftRight_eq_div_pow]
  omega

@[simp] theorem ncField_fields (nc : BitVec 3) : ncField (fields op ln sl b k ri (nc ++ (0 : BitVec 10))) = nc := by
  apply BitVec.eq_of_toNat_eq
  simp only [ncField, BitVec.extractLsb'_toNat, toNat_fields, Nat.shiftRight_eq_div_pow, toNat_append_add,
    BitVec.ofNat_eq_ofNat, BitVec.toNat_ofNat]
  omega

@[simp] theorem x2Field_fields (v : BitVec 2) : x2Field (fields op ln sl b k ri (v ++ (0 : BitVec 11))) = v := by
  apply BitVec.eq_of_toNat_eq
  simp only [x2Field, BitVec.extractLsb'_toNat, toNat_fields, Nat.shiftRight_eq_div_pow, toNat_append_add,
    BitVec.ofNat_eq_ofNat, BitVec.toNat_ofNat]
  omega

@[simp] theorem lField_fields (l : BitVec 6) : lField (fields op ln sl b k ri (l ++ (0 : BitVec 7))) = l := by
  apply BitVec.eq_of_toNat_eq
  simp only [lField, BitVec.extractLsb'_toNat, toNat_fields, Nat.shiftRight_eq_div_pow, toNat_append_add,
    BitVec.ofNat_eq_ofNat, BitVec.toNat_ofNat]
  omega

@[simp] theorem x2Field_fields_rkread (dl : BitVec 2) (d : BitVec 1) :
    x2Field (fields op ln sl b k ri (dl ++ d ++ (0 : BitVec 10))) = dl := by
  apply BitVec.eq_of_toNat_eq
  simp only [x2Field, BitVec.extractLsb'_toNat, toNat_fields, Nat.shiftRight_eq_div_pow, toNat_append_add,
    BitVec.ofNat_eq_ofNat, BitVec.toNat_ofNat]
  omega

@[simp] theorem dField_fields_rkread (dl : BitVec 2) (d : BitVec 1) :
    dField (fields op ln sl b k ri (dl ++ d ++ (0 : BitVec 10))) = d := by
  apply BitVec.eq_of_toNat_eq
  simp only [dField, BitVec.extractLsb'_toNat, toNat_fields, Nat.shiftRight_eq_div_pow, toNat_append_add,
    BitVec.ofNat_eq_ofNat, BitVec.toNat_ofNat]
  omega

end Fields

/-- Every word is made of its seven fields (R101). -/
theorem fields_of_word (cw : Word) :
    fields (opField cw) (lnField cw) (slField cw) (bField cw) (kField cw) (riField cw) (cw.extractLsb' 0 13) = cw := by
  apply BitVec.eq_of_toNat_eq
  simp only [toNat_fields, opField, lnField, slField, bField, kField, riField, BitVec.extractLsb'_toNat,
    Nat.shiftRight_eq_div_pow]
  omega

/-- Two words with the same seven fields are the same word. -/
theorem word_ext {a b : Word} (op : opField a = opField b) (ln : lnField a = lnField b) (sl : slField a = slField b)
    (hb : bField a = bField b) (k : kField a = kField b) (ri : riField a = riField b)
    (x : a.extractLsb' 0 13 = b.extractLsb' 0 13) : a = b := by
  rw [← fields_of_word a, ← fields_of_word b, op, ln, sl, hb, k, ri, x]

/-! ## The codes of R103 -/

@[simp] theorem laneOf_laneCode (l : Lane) : laneOf (laneCode l) = l := rfl

@[simp] theorem laneCode_laneOf (v : BitVec 2) : laneCode (laneOf v) = v := rfl

@[simp] theorem laneCountOf_code (n : LaneCount) : laneCountOf n.code = some n := by
  cases n <;> rfl

theorem code_of_laneCountOf {v : BitVec 2} {n : LaneCount} (h : laneCountOf v = some n) : n.code = v := by
  revert v n; decide

@[simp] theorem keySelOf_code (key : KeySel) : keySelOf key.b key.k = some key := by
  cases key <;> rfl

theorem code_of_keySelOf {b : BitVec 1} {k : BitVec 2} {key : KeySel} (h : keySelOf b k = some key) :
    key.b = b ∧ key.k = k := by
  unfold keySelOf at h
  split at h
  · next hb => cases h; exact ⟨hb.symm, rfl⟩
  · next hb =>
    split at h
    · next hk => cases h; exact ⟨by revert b; decide, hk.symm⟩
    · cases h

@[simp] theorem variantOf_code (v : Variant) : variantOf v.code = v := by
  cases v <;> rfl

@[simp] theorem code_variantOf (v : BitVec 2) : (variantOf v).code = v := by
  revert v; decide

@[simp] theorem regFileOf_code (d : RegFile) : regFileOf d.code = d := by
  cases d <;> rfl

@[simp] theorem code_regFileOf (v : BitVec 1) : (regFileOf v).code = v := by
  revert v; decide

theorem roundCountOf_code {cnt : Nat} (h : countOk cnt = true) : roundCountOf (roundCountCode cnt) = some cnt := by
  have : cnt = 4 ∨ cnt = 6 ∨ cnt = 7 ∨ cnt = 10 ∨ cnt = 12 ∨ cnt = 14 := by
    simpa [countOk, roundCounts] using h
  rcases this with rfl | rfl | rfl | rfl | rfl | rfl <;> decide

theorem code_of_roundCountOf {v : BitVec 3} {cnt : Nat} (h : roundCountOf v = some cnt) :
    roundCountCode cnt = v ∧ countOk cnt = true := by
  have : ∀ v : BitVec 3, ∀ c ∈ (roundCountOf v).toList, roundCountCode c = v ∧ countOk c = true := by decide
  exact this v cnt (by simp [h])

/-! ## The opcode map (R104) -/

@[simp] theorem ofOp_op (m : Mnemonic) : Mnemonic.ofOp m.op = some m := by
  cases m <;> rfl

theorem op_of_ofOp {o : BitVec 8} {m : Mnemonic} (h : Mnemonic.ofOp o = some m) : m.op = o := by
  simpa using List.find?_some h

theorem mem_all (m : Mnemonic) : m ∈ Mnemonic.all := by
  cases m <;> decide

end Sys2Proof
end

