-- ==== Sys2Proof/Laws/State.lean ====
section
/-! SUPPORT. What each named update of the state leaves in each field: one lemma per field per update. -/

namespace Sys2Proof.Machine.State

variable (s : State)

/-! ## setStatus -/

@[simp] theorem setStatus_st (v : Word) :
    (s.setStatus v).st = s.st := rfl
@[simp] theorem setStatus_wst (v : Word) :
    (s.setStatus v).wst = s.wst := rfl
@[simp] theorem setStatus_kr (v : Word) :
    (s.setStatus v).kr = s.kr := rfl
@[simp] theorem setStatus_wkr (v : Word) :
    (s.setStatus v).wkr = s.wkr := rfl
@[simp] theorem setStatus_keyin (v : Word) :
    (s.setStatus v).keyin = s.keyin := rfl
@[simp] theorem setStatus_wki (v : Word) :
    (s.setStatus v).wki = s.wki := rfl
@[simp] theorem setStatus_ks (v : Word) :
    (s.setStatus v).ks = s.ks := rfl
@[simp] theorem setStatus_caps (v : Word) :
    (s.setStatus v).caps = s.caps := rfl
@[simp] theorem setStatus_status (v : Word) :
    (s.setStatus v).status = v := rfl
@[simp] theorem setStatus_fcmd (v : Word) :
    (s.setStatus v).fcmd = s.fcmd := rfl
@[simp] theorem setStatus_res (v : Word) :
    (s.setStatus v).res = s.res := rfl
@[simp] theorem setStatus_config (v : Word) :
    (s.setStatus v).config = s.config := rfl
@[simp] theorem setStatus_port (v : Word) :
    (s.setStatus v).port = s.port := rfl
@[simp] theorem setStatus_reply (v : Word) :
    (s.setStatus v).reply = s.reply := rfl
@[simp] theorem setStatus_resets (v : Word) :
    (s.setStatus v).resets = s.resets := rfl

/-! ## setFcmd -/

@[simp] theorem setFcmd_st (v : Word) :
    (s.setFcmd v).st = s.st := rfl
@[simp] theorem setFcmd_wst (v : Word) :
    (s.setFcmd v).wst = s.wst := rfl
@[simp] theorem setFcmd_kr (v : Word) :
    (s.setFcmd v).kr = s.kr := rfl
@[simp] theorem setFcmd_wkr (v : Word) :
    (s.setFcmd v).wkr = s.wkr := rfl
@[simp] theorem setFcmd_keyin (v : Word) :
    (s.setFcmd v).keyin = s.keyin := rfl
@[simp] theorem setFcmd_wki (v : Word) :
    (s.setFcmd v).wki = s.wki := rfl
@[simp] theorem setFcmd_ks (v : Word) :
    (s.setFcmd v).ks = s.ks := rfl
@[simp] theorem setFcmd_caps (v : Word) :
    (s.setFcmd v).caps = s.caps := rfl
@[simp] theorem setFcmd_status (v : Word) :
    (s.setFcmd v).status = s.status := rfl
@[simp] theorem setFcmd_fcmd (v : Word) :
    (s.setFcmd v).fcmd = v := rfl
@[simp] theorem setFcmd_res (v : Word) :
    (s.setFcmd v).res = s.res := rfl
@[simp] theorem setFcmd_config (v : Word) :
    (s.setFcmd v).config = s.config := rfl
@[simp] theorem setFcmd_port (v : Word) :
    (s.setFcmd v).port = s.port := rfl
@[simp] theorem setFcmd_reply (v : Word) :
    (s.setFcmd v).reply = s.reply := rfl
@[simp] theorem setFcmd_resets (v : Word) :
    (s.setFcmd v).resets = s.resets := rfl

/-! ## setRes -/

@[simp] theorem setRes_st (v : Word) :
    (s.setRes v).st = s.st := rfl
@[simp] theorem setRes_wst (v : Word) :
    (s.setRes v).wst = s.wst := rfl
@[simp] theorem setRes_kr (v : Word) :
    (s.setRes v).kr = s.kr := rfl
@[simp] theorem setRes_wkr (v : Word) :
    (s.setRes v).wkr = s.wkr := rfl
@[simp] theorem setRes_keyin (v : Word) :
    (s.setRes v).keyin = s.keyin := rfl
@[simp] theorem setRes_wki (v : Word) :
    (s.setRes v).wki = s.wki := rfl
@[simp] theorem setRes_ks (v : Word) :
    (s.setRes v).ks = s.ks := rfl
@[simp] theorem setRes_caps (v : Word) :
    (s.setRes v).caps = s.caps := rfl
@[simp] theorem setRes_status (v : Word) :
    (s.setRes v).status = s.status := rfl
@[simp] theorem setRes_fcmd (v : Word) :
    (s.setRes v).fcmd = s.fcmd := rfl
@[simp] theorem setRes_res (v : Word) :
    (s.setRes v).res = v := rfl
@[simp] theorem setRes_config (v : Word) :
    (s.setRes v).config = s.config := rfl
@[simp] theorem setRes_port (v : Word) :
    (s.setRes v).port = s.port := rfl
@[simp] theorem setRes_reply (v : Word) :
    (s.setRes v).reply = s.reply := rfl
@[simp] theorem setRes_resets (v : Word) :
    (s.setRes v).resets = s.resets := rfl

/-! ## setCaps -/

@[simp] theorem setCaps_st (v : Word) :
    (s.setCaps v).st = s.st := rfl
@[simp] theorem setCaps_wst (v : Word) :
    (s.setCaps v).wst = s.wst := rfl
@[simp] theorem setCaps_kr (v : Word) :
    (s.setCaps v).kr = s.kr := rfl
@[simp] theorem setCaps_wkr (v : Word) :
    (s.setCaps v).wkr = s.wkr := rfl
@[simp] theorem setCaps_keyin (v : Word) :
    (s.setCaps v).keyin = s.keyin := rfl
@[simp] theorem setCaps_wki (v : Word) :
    (s.setCaps v).wki = s.wki := rfl
@[simp] theorem setCaps_ks (v : Word) :
    (s.setCaps v).ks = s.ks := rfl
@[simp] theorem setCaps_caps (v : Word) :
    (s.setCaps v).caps = v := rfl
@[simp] theorem setCaps_status (v : Word) :
    (s.setCaps v).status = s.status := rfl
@[simp] theorem setCaps_fcmd (v : Word) :
    (s.setCaps v).fcmd = s.fcmd := rfl
@[simp] theorem setCaps_res (v : Word) :
    (s.setCaps v).res = s.res := rfl
@[simp] theorem setCaps_config (v : Word) :
    (s.setCaps v).config = s.config := rfl
@[simp] theorem setCaps_port (v : Word) :
    (s.setCaps v).port = s.port := rfl
@[simp] theorem setCaps_reply (v : Word) :
    (s.setCaps v).reply = s.reply := rfl
@[simp] theorem setCaps_resets (v : Word) :
    (s.setCaps v).resets = s.resets := rfl

/-! ## setReply -/

@[simp] theorem setReply_st (r : Reply) :
    (s.setReply r).st = s.st := rfl
@[simp] theorem setReply_wst (r : Reply) :
    (s.setReply r).wst = s.wst := rfl
@[simp] theorem setReply_kr (r : Reply) :
    (s.setReply r).kr = s.kr := rfl
@[simp] theorem setReply_wkr (r : Reply) :
    (s.setReply r).wkr = s.wkr := rfl
@[simp] theorem setReply_keyin (r : Reply) :
    (s.setReply r).keyin = s.keyin := rfl
@[simp] theorem setReply_wki (r : Reply) :
    (s.setReply r).wki = s.wki := rfl
@[simp] theorem setReply_ks (r : Reply) :
    (s.setReply r).ks = s.ks := rfl
@[simp] theorem setReply_caps (r : Reply) :
    (s.setReply r).caps = s.caps := rfl
@[simp] theorem setReply_status (r : Reply) :
    (s.setReply r).status = s.status := rfl
@[simp] theorem setReply_fcmd (r : Reply) :
    (s.setReply r).fcmd = s.fcmd := rfl
@[simp] theorem setReply_res (r : Reply) :
    (s.setReply r).res = s.res := rfl
@[simp] theorem setReply_config (r : Reply) :
    (s.setReply r).config = s.config := rfl
@[simp] theorem setReply_port (r : Reply) :
    (s.setReply r).port = s.port := rfl
@[simp] theorem setReply_reply (r : Reply) :
    (s.setReply r).reply = r := rfl
@[simp] theorem setReply_resets (r : Reply) :
    (s.setReply r).resets = s.resets := rfl

/-! ## writeSt -/

@[simp] theorem writeSt_st (i : Lane) (v : Block) :
    (s.writeSt i v).st = s.st.set i v := rfl
@[simp] theorem writeSt_wst (i : Lane) (v : Block) :
    (s.writeSt i v).wst = s.wst.set i true := rfl
@[simp] theorem writeSt_kr (i : Lane) (v : Block) :
    (s.writeSt i v).kr = s.kr := rfl
@[simp] theorem writeSt_wkr (i : Lane) (v : Block) :
    (s.writeSt i v).wkr = s.wkr := rfl
@[simp] theorem writeSt_keyin (i : Lane) (v : Block) :
    (s.writeSt i v).keyin = s.keyin := rfl
@[simp] theorem writeSt_wki (i : Lane) (v : Block) :
    (s.writeSt i v).wki = s.wki := rfl
@[simp] theorem writeSt_ks (i : Lane) (v : Block) :
    (s.writeSt i v).ks = s.ks := rfl
@[simp] theorem writeSt_caps (i : Lane) (v : Block) :
    (s.writeSt i v).caps = s.caps := rfl
@[simp] theorem writeSt_status (i : Lane) (v : Block) :
    (s.writeSt i v).status = s.status := rfl
@[simp] theorem writeSt_fcmd (i : Lane) (v : Block) :
    (s.writeSt i v).fcmd = s.fcmd := rfl
@[simp] theorem writeSt_res (i : Lane) (v : Block) :
    (s.writeSt i v).res = s.res := rfl
@[simp] theorem writeSt_config (i : Lane) (v : Block) :
    (s.writeSt i v).config = s.config := rfl
@[simp] theorem writeSt_port (i : Lane) (v : Block) :
    (s.writeSt i v).port = s.port := rfl
@[simp] theorem writeSt_reply (i : Lane) (v : Block) :
    (s.writeSt i v).reply = s.reply := rfl
@[simp] theorem writeSt_resets (i : Lane) (v : Block) :
    (s.writeSt i v).resets = s.resets := rfl

/-! ## writeKr -/

@[simp] theorem writeKr_st (i : Lane) (v : Block) :
    (s.writeKr i v).st = s.st := rfl
@[simp] theorem writeKr_wst (i : Lane) (v : Block) :
    (s.writeKr i v).wst = s.wst := rfl
@[simp] theorem writeKr_kr (i : Lane) (v : Block) :
    (s.writeKr i v).kr = s.kr.set i v := rfl
@[simp] theorem writeKr_wkr (i : Lane) (v : Block) :
    (s.writeKr i v).wkr = s.wkr.set i true := rfl
@[simp] theorem writeKr_keyin (i : Lane) (v : Block) :
    (s.writeKr i v).keyin = s.keyin := rfl
@[simp] theorem writeKr_wki (i : Lane) (v : Block) :
    (s.writeKr i v).wki = s.wki := rfl
@[simp] theorem writeKr_ks (i : Lane) (v : Block) :
    (s.writeKr i v).ks = s.ks := rfl
@[simp] theorem writeKr_caps (i : Lane) (v : Block) :
    (s.writeKr i v).caps = s.caps := rfl
@[simp] theorem writeKr_status (i : Lane) (v : Block) :
    (s.writeKr i v).status = s.status := rfl
@[simp] theorem writeKr_fcmd (i : Lane) (v : Block) :
    (s.writeKr i v).fcmd = s.fcmd := rfl
@[simp] theorem writeKr_res (i : Lane) (v : Block) :
    (s.writeKr i v).res = s.res := rfl
@[simp] theorem writeKr_config (i : Lane) (v : Block) :
    (s.writeKr i v).config = s.config := rfl
@[simp] theorem writeKr_port (i : Lane) (v : Block) :
    (s.writeKr i v).port = s.port := rfl
@[simp] theorem writeKr_reply (i : Lane) (v : Block) :
    (s.writeKr i v).reply = s.reply := rfl
@[simp] theorem writeKr_resets (i : Lane) (v : Block) :
    (s.writeKr i v).resets = s.resets := rfl

/-! ## writeSlot -/

@[simp] theorem writeSlot_st (k : Lane) (q : Slot) :
    (s.writeSlot k q).st = s.st := rfl
@[simp] theorem writeSlot_wst (k : Lane) (q : Slot) :
    (s.writeSlot k q).wst = s.wst := rfl
@[simp] theorem writeSlot_kr (k : Lane) (q : Slot) :
    (s.writeSlot k q).kr = s.kr := rfl
@[simp] theorem writeSlot_wkr (k : Lane) (q : Slot) :
    (s.writeSlot k q).wkr = s.wkr := rfl
@[simp] theorem writeSlot_keyin (k : Lane) (q : Slot) :
    (s.writeSlot k q).keyin = s.keyin := rfl
@[simp] theorem writeSlot_wki (k : Lane) (q : Slot) :
    (s.writeSlot k q).wki = s.wki := rfl
@[simp] theorem writeSlot_ks (k : Lane) (q : Slot) :
    (s.writeSlot k q).ks = s.ks.set k q := rfl
@[simp] theorem writeSlot_caps (k : Lane) (q : Slot) :
    (s.writeSlot k q).caps = s.caps := rfl
@[simp] theorem writeSlot_status (k : Lane) (q : Slot) :
    (s.writeSlot k q).status = s.status := rfl
@[simp] theorem writeSlot_fcmd (k : Lane) (q : Slot) :
    (s.writeSlot k q).fcmd = s.fcmd := rfl
@[simp] theorem writeSlot_res (k : Lane) (q : Slot) :
    (s.writeSlot k q).res = s.res := rfl
@[simp] theorem writeSlot_config (k : Lane) (q : Slot) :
    (s.writeSlot k q).config = s.config := rfl
@[simp] theorem writeSlot_port (k : Lane) (q : Slot) :
    (s.writeSlot k q).port = s.port := rfl
@[simp] theorem writeSlot_reply (k : Lane) (q : Slot) :
    (s.writeSlot k q).reply = s.reply := rfl
@[simp] theorem writeSlot_resets (k : Lane) (q : Slot) :
    (s.writeSlot k q).resets = s.resets := rfl

/-! ## writeKeyin -/

@[simp] theorem writeKeyin_st (b : List Byte) :
    (s.writeKeyin b).st = s.st := rfl
@[simp] theorem writeKeyin_wst (b : List Byte) :
    (s.writeKeyin b).wst = s.wst := rfl
@[simp] theorem writeKeyin_kr (b : List Byte) :
    (s.writeKeyin b).kr = s.kr := rfl
@[simp] theorem writeKeyin_wkr (b : List Byte) :
    (s.writeKeyin b).wkr = s.wkr := rfl
@[simp] theorem writeKeyin_keyin (b : List Byte) :
    (s.writeKeyin b).keyin = s.keyin.mapIdx fun j old => b.getD j old := rfl
@[simp] theorem writeKeyin_wki (b : List Byte) :
    (s.writeKeyin b).wki = s.wki.mapIdx fun j old => decide (j < b.length) || old := rfl
@[simp] theorem writeKeyin_ks (b : List Byte) :
    (s.writeKeyin b).ks = s.ks := rfl
@[simp] theorem writeKeyin_caps (b : List Byte) :
    (s.writeKeyin b).caps = s.caps := rfl
@[simp] theorem writeKeyin_status (b : List Byte) :
    (s.writeKeyin b).status = s.status := rfl
@[simp] theorem writeKeyin_fcmd (b : List Byte) :
    (s.writeKeyin b).fcmd = s.fcmd := rfl
@[simp] theorem writeKeyin_res (b : List Byte) :
    (s.writeKeyin b).res = s.res := rfl
@[simp] theorem writeKeyin_config (b : List Byte) :
    (s.writeKeyin b).config = s.config := rfl
@[simp] theorem writeKeyin_port (b : List Byte) :
    (s.writeKeyin b).port = s.port := rfl
@[simp] theorem writeKeyin_reply (b : List Byte) :
    (s.writeKeyin b).reply = s.reply := rfl
@[simp] theorem writeKeyin_resets (b : List Byte) :
    (s.writeKeyin b).resets = s.resets := rfl

/-! ## commitLanes -/

@[simp] theorem commitLanes_st (n : LaneCount) (sl : Lane) (f : Lane → Block) :
    (s.commitLanes n sl f).st = Quad.ofFn fun i => if inLanes n sl i then f i else s.st.get i := rfl
@[simp] theorem commitLanes_wst (n : LaneCount) (sl : Lane) (f : Lane → Block) :
    (s.commitLanes n sl f).wst = Quad.ofFn fun i => inLanes n sl i || s.wst.get i := rfl
@[simp] theorem commitLanes_kr (n : LaneCount) (sl : Lane) (f : Lane → Block) :
    (s.commitLanes n sl f).kr = s.kr := rfl
@[simp] theorem commitLanes_wkr (n : LaneCount) (sl : Lane) (f : Lane → Block) :
    (s.commitLanes n sl f).wkr = s.wkr := rfl
@[simp] theorem commitLanes_keyin (n : LaneCount) (sl : Lane) (f : Lane → Block) :
    (s.commitLanes n sl f).keyin = s.keyin := rfl
@[simp] theorem commitLanes_wki (n : LaneCount) (sl : Lane) (f : Lane → Block) :
    (s.commitLanes n sl f).wki = s.wki := rfl
@[simp] theorem commitLanes_ks (n : LaneCount) (sl : Lane) (f : Lane → Block) :
    (s.commitLanes n sl f).ks = s.ks := rfl
@[simp] theorem commitLanes_caps (n : LaneCount) (sl : Lane) (f : Lane → Block) :
    (s.commitLanes n sl f).caps = s.caps := rfl
@[simp] theorem commitLanes_status (n : LaneCount) (sl : Lane) (f : Lane → Block) :
    (s.commitLanes n sl f).status = s.status := rfl
@[simp] theorem commitLanes_fcmd (n : LaneCount) (sl : Lane) (f : Lane → Block) :
    (s.commitLanes n sl f).fcmd = s.fcmd := rfl
@[simp] theorem commitLanes_res (n : LaneCount) (sl : Lane) (f : Lane → Block) :
    (s.commitLanes n sl f).res = s.res := rfl
@[simp] theorem commitLanes_config (n : LaneCount) (sl : Lane) (f : Lane → Block) :
    (s.commitLanes n sl f).config = s.config := rfl
@[simp] theorem commitLanes_port (n : LaneCount) (sl : Lane) (f : Lane → Block) :
    (s.commitLanes n sl f).port = s.port := rfl
@[simp] theorem commitLanes_reply (n : LaneCount) (sl : Lane) (f : Lane → Block) :
    (s.commitLanes n sl f).reply = s.reply := rfl
@[simp] theorem commitLanes_resets (n : LaneCount) (sl : Lane) (f : Lane → Block) :
    (s.commitLanes n sl f).resets = s.resets := rfl

end Sys2Proof.Machine.State
end

