-- ==== Sys2Proof/Laws/Ops.lean ====
section
/-!
SUPPORT. What each shared operation can do, said once: the lane sets, the latch, raising a cause, completion,
and `execute`, with the reading of its checks. Later proofs cite these instead of unfolding.
-/

namespace Sys2Proof.Machine

/-! ## Lanes (R152) -/

@[simp] theorem mem_lanes {n : LaneCount} {sl i : Lane} : i ∈ lanes n sl ↔ inLanes n sl i = true := by
  simp [lanes]

theorem inLanes_iff {n : LaneCount} {sl i : Lane} :
    inLanes n sl i = true ↔ sl.val ≤ i.val ∧ i.val < sl.val + n.count := by
  simp [inLanes]

@[simp] theorem inLanes_start (n : LaneCount) (sl : Lane) : inLanes n sl sl = true := by
  cases n <;> simp [inLanes, LaneCount.count]

@[simp] theorem inLanes_one {sl i : Lane} : inLanes .one sl i = true ↔ i = sl := by
  revert sl i; decide

theorem laneAligned_iff {n : LaneCount} {sl : Lane} : laneAligned n sl = true ↔ sl.val % n.count = 0 := by
  simp [laneAligned]

theorem lanesReady_iff {n : LaneCount} {sl : Lane} {s : State} :
    lanesReady n sl s = true ↔ LanesWritten n sl s := by
  simp [lanesReady, LanesWritten, List.all_eq_true]

theorem keysReady_iff {n : LaneCount} {sl : Lane} {key : KeySel} {s : State} :
    keysReady n sl key s = true ↔ KeysWritten n sl key s := by
  simp [keysReady, KeysWritten, List.all_eq_true]

theorem keyBytesReady_iff {l : Nat} {s : State} :
    keyBytesReady l s = true ↔ ∀ j : Fin 32, j.val < l → s.wki[j] = true := by
  simp only [keyBytesReady, List.all_eq_true, id, List.mem_take_iff_getElem, Vector.length_toList]
  constructor
  · intro h j hj
    exact h _ ⟨j.val, by omega, by simp⟩
  · rintro h _ ⟨j, hj, rfl⟩
    simpa using h ⟨j, by omega⟩ (by simp; omega)

/-! ## The checks (R426) -/

theorem checkLanes_eq_none {n : LaneCount} {sl : Lane} : checkLanes n sl = none ↔ sl.val % n.count = 0 := by
  simp [checkLanes, laneAligned_iff]

theorem checkEmpty_eq_none {n : LaneCount} {sl : Lane} {key : KeySel} {s : State} :
    checkEmpty n sl key s = none ↔ SlotsFilled n sl key s := by
  simp [checkEmpty, SlotsFilled, keySlot]

theorem checkIndex_eq_none {n : LaneCount} {sl : Lane} {key : KeySel} {ri cnt : Nat} {s : State} :
    checkIndex n sl key ri cnt s = none ↔ KeysInRange n sl key ri cnt s := by
  simp only [checkIndex, KeysInRange, keySlot, ite_eq_right_iff, reduceCtorEq, imp_false, List.any_eq_true,
    mem_lanes, not_exists, not_and]
  refine forall_congr' fun l => imp_congr_right fun _ => ?_
  exact (not_congr decide_eq_true_iff).trans Nat.not_lt

theorem checkVariant_eq_none {n : LaneCount} {sl : Lane} {key : KeySel} {v : Variant} {s : State} :
    checkVariant n sl key v s = none ↔ VariantFits n sl key v s := by
  cases v <;> simp [checkVariant, VariantFits, keySlot, Variant.expected]

theorem checkLanes_cause {n : LaneCount} {sl : Lane} {c : Cause} (h : checkLanes n sl = some c) :
    c = .laneOutOfRange ∧ sl.val % n.count ≠ 0 := by
  simp only [checkLanes] at h
  split at h
  · cases h
  · next ha => cases h; exact ⟨rfl, fun hc => ha (laneAligned_iff.2 hc)⟩

theorem checkEmpty_cause {n : LaneCount} {sl : Lane} {key : KeySel} {s : State} {c : Cause}
    (h : checkEmpty n sl key s = some c) : c = .scheduleEmpty ∧ ¬ SlotsFilled n sl key s := by
  have hn : ¬ SlotsFilled n sl key s := fun hf => by simp [checkEmpty_eq_none.2 hf] at h
  simp only [checkEmpty] at h
  split at h <;> cases h
  exact ⟨rfl, hn⟩

theorem checkIndex_cause {n : LaneCount} {sl : Lane} {key : KeySel} {ri cnt : Nat} {s : State} {c : Cause}
    (h : checkIndex n sl key ri cnt s = some c) :
    c = .roundIndexOutOfRange ∧ ¬ KeysInRange n sl key ri cnt s := by
  have hn : ¬ KeysInRange n sl key ri cnt s := fun hf => by simp [checkIndex_eq_none.2 hf] at h
  simp only [checkIndex] at h
  split at h <;> cases h
  exact ⟨rfl, hn⟩

theorem checkVariant_cause {n : LaneCount} {sl : Lane} {key : KeySel} {v : Variant} {s : State} {c : Cause}
    (h : checkVariant n sl key v s = some c) : c = .roundCountMismatch ∧ ¬ VariantFits n sl key v s := by
  have hn : ¬ VariantFits n sl key v s := fun hf => by simp [checkVariant_eq_none.2 hf] at h
  simp only [checkVariant] at h
  split at h
  · cases h
  · split at h <;> cases h
    exact ⟨rfl, hn⟩

/-! ## The latch (R350) -/

theorem latch_eq (s : State) : latch s = { s with caps := latchedCaps s } := by
  simp only [latch, latchedCaps, capsInit]
  by_cases h : s.caps.getLsbD 0 = true
  · simp only [h, if_true]
  · simp only [h]; rfl

@[simp] theorem latch_caps (s : State) : (latch s).caps = latchedCaps s := by simp [latch_eq]
@[simp] theorem latch_st (s : State) : (latch s).st = s.st := by simp [latch_eq]
@[simp] theorem latch_wst (s : State) : (latch s).wst = s.wst := by simp [latch_eq]
@[simp] theorem latch_kr (s : State) : (latch s).kr = s.kr := by simp [latch_eq]
@[simp] theorem latch_wkr (s : State) : (latch s).wkr = s.wkr := by simp [latch_eq]
@[simp] theorem latch_keyin (s : State) : (latch s).keyin = s.keyin := by simp [latch_eq]
@[simp] theorem latch_wki (s : State) : (latch s).wki = s.wki := by simp [latch_eq]
@[simp] theorem latch_ks (s : State) : (latch s).ks = s.ks := by simp [latch_eq]
@[simp] theorem latch_status (s : State) : (latch s).status = s.status := by simp [latch_eq]
@[simp] theorem latch_fcmd (s : State) : (latch s).fcmd = s.fcmd := by simp [latch_eq]
@[simp] theorem latch_res (s : State) : (latch s).res = s.res := by simp [latch_eq]
@[simp] theorem latch_config (s : State) : (latch s).config = s.config := by simp [latch_eq]
@[simp] theorem latch_port (s : State) : (latch s).port = s.port := by simp [latch_eq]
@[simp] theorem latch_reply (s : State) : (latch s).reply = s.reply := by simp [latch_eq]
@[simp] theorem latch_resets (s : State) : (latch s).resets = s.resets := by simp [latch_eq]

@[simp] theorem init_capsWord (p : Probe) : capsInit (capsWord p) = true := by
  rcases p with ⟨a, b, c, d⟩
  cases a <;> cases b <;> cases c <;> cases d <;> decide

@[simp] theorem init_latchedCaps (s : State) : capsInit (latchedCaps s) = true := by
  simp only [latchedCaps]
  split
  · assumption
  · exact init_capsWord _

/-- R352: a second trigger does nothing. -/
@[simp] theorem latch_latch (s : State) : latch (latch s) = latch s := by
  rw [latch, latch_caps, init_latchedCaps, if_pos rfl]

/-! ## Raising a cause (R423, R424) and completion (R159) -/

@[simp] theorem raise_st (c : Cause) (cw : Word) (s : State) : (raise c cw s).st = s.st := by
  cases c <;> rfl
@[simp] theorem raise_wst (c : Cause) (cw : Word) (s : State) : (raise c cw s).wst = s.wst := by
  cases c <;> rfl
@[simp] theorem raise_kr (c : Cause) (cw : Word) (s : State) : (raise c cw s).kr = s.kr := by
  cases c <;> rfl
@[simp] theorem raise_wkr (c : Cause) (cw : Word) (s : State) : (raise c cw s).wkr = s.wkr := by
  cases c <;> rfl
@[simp] theorem raise_keyin (c : Cause) (cw : Word) (s : State) : (raise c cw s).keyin = s.keyin := by
  cases c <;> rfl
@[simp] theorem raise_wki (c : Cause) (cw : Word) (s : State) : (raise c cw s).wki = s.wki := by
  cases c <;> rfl
@[simp] theorem raise_ks (c : Cause) (cw : Word) (s : State) : (raise c cw s).ks = s.ks := by
  cases c <;> rfl
@[simp] theorem raise_caps (c : Cause) (cw : Word) (s : State) : (raise c cw s).caps = s.caps := by
  cases c <;> rfl
@[simp] theorem raise_res (c : Cause) (cw : Word) (s : State) : (raise c cw s).res = s.res := by
  cases c <;> rfl
@[simp] theorem raise_config (c : Cause) (cw : Word) (s : State) : (raise c cw s).config = s.config := by
  cases c <;> rfl
@[simp] theorem raise_port (c : Cause) (cw : Word) (s : State) : (raise c cw s).port = s.port := by
  cases c <;> rfl
@[simp] theorem raise_reply (c : Cause) (cw : Word) (s : State) : (raise c cw s).reply = s.reply := by
  cases c <;> rfl
@[simp] theorem raise_resets (c : Cause) (cw : Word) (s : State) : (raise c cw s).resets = s.resets := by
  cases c <;> rfl
@[simp] theorem raise_status (c : Cause) (cw : Word) (s : State) :
    (raise c cw s).status = statusWord (!c.isFatal) c.isFatal c.code 0 := by
  cases c <;> rfl
@[simp] theorem raise_fcmd (c : Cause) (cw : Word) (s : State) :
    (raise c cw s).fcmd = if c.isFatal then cw else s.fcmd := by
  cases c <;> rfl

/-- What raising a cause in a command leaves, all of it. -/
theorem raised_raise (c : Cause) (cw : Word) (s : State) : Raised c cw s (raise c cw (latch s)) where
  status := raise_status ..
  fcmd := by simp
  rest := by cases c <;> rw [latch_eq] <;> rfl

@[simp] theorem complete_st (p : Path) (s : State) : (complete p s).st = s.st := rfl
@[simp] theorem complete_wst (p : Path) (s : State) : (complete p s).wst = s.wst := rfl
@[simp] theorem complete_kr (p : Path) (s : State) : (complete p s).kr = s.kr := rfl
@[simp] theorem complete_wkr (p : Path) (s : State) : (complete p s).wkr = s.wkr := rfl
@[simp] theorem complete_keyin (p : Path) (s : State) : (complete p s).keyin = s.keyin := rfl
@[simp] theorem complete_wki (p : Path) (s : State) : (complete p s).wki = s.wki := rfl
@[simp] theorem complete_ks (p : Path) (s : State) : (complete p s).ks = s.ks := rfl
@[simp] theorem complete_caps (p : Path) (s : State) : (complete p s).caps = s.caps := rfl
@[simp] theorem complete_fcmd (p : Path) (s : State) : (complete p s).fcmd = s.fcmd := rfl
@[simp] theorem complete_res (p : Path) (s : State) : (complete p s).res = s.res := rfl
@[simp] theorem complete_config (p : Path) (s : State) : (complete p s).config = s.config := rfl
@[simp] theorem complete_port (p : Path) (s : State) : (complete p s).port = s.port := rfl
@[simp] theorem complete_reply (p : Path) (s : State) : (complete p s).reply = s.reply := rfl
@[simp] theorem complete_resets (p : Path) (s : State) : (complete p s).resets = s.resets := rfl
@[simp] theorem complete_status (p : Path) (s : State) :
    (complete p s).status = statusWord false false 0x00 p.code := rfl

@[simp] theorem fatalBit_statusWord (err fatal : Bool) (cause : BitVec 8) (path : BitVec 2) :
    fatalBit (statusWord err fatal cause path) = fatal := by
  simp only [fatalBit, statusWord, BitVec.getLsbD_append]
  simp

@[simp] theorem errBit_statusWord (err fatal : Bool) (cause : BitVec 8) (path : BitVec 2) :
    errBit (statusWord err fatal cause path) = err := by
  simp only [errBit, statusWord, BitVec.getLsbD_append]
  simp

theorem toNat_statusWord (err fatal : Bool) (cause : BitVec 8) (path : BitVec 2) :
    (statusWord err fatal cause path).toNat = path.toNat * 2 ^ 16 + cause.toNat * 2 ^ 8 + fatal.toNat * 2 + err.toNat := by
  have append_add : ∀ {v w : Nat} (a : BitVec v) (b : BitVec w), (a ++ b).toNat = a.toNat * 2 ^ w + b.toNat :=
    fun a b => by rw [BitVec.toNat_append, ← Nat.shiftLeft_add_eq_or_of_lt b.isLt, Nat.shiftLeft_eq]
  simp only [statusWord, append_add, BitVec.ofNat_eq_ofNat, BitVec.toNat_ofNat, BitVec.toNat_ofBool]
  omega

@[simp] theorem causeField_statusWord (err fatal : Bool) (cause : BitVec 8) (path : BitVec 2) :
    causeField (statusWord err fatal cause path) = cause := by
  have := Bool.toNat_le err
  have := Bool.toNat_le fatal
  apply BitVec.eq_of_toNat_eq
  simp only [causeField, BitVec.extractLsb'_toNat, toNat_statusWord, Nat.shiftRight_eq_div_pow]
  omega

@[simp] theorem pathField_statusWord (err fatal : Bool) (cause : BitVec 8) (path : BitVec 2) :
    pathField (statusWord err fatal cause path) = path := by
  have := Bool.toNat_le err
  have := Bool.toNat_le fatal
  apply BitVec.eq_of_toNat_eq
  simp only [pathField, BitVec.extractLsb'_toNat, toNat_statusWord, Nat.shiftRight_eq_div_pow]
  omega

/-! ## The shape of a command (R150) -/

section Execute

variable {i : Instr} {check : State → Option Cause} {ready : State → Bool} {effect : State → State} {s : State}

/-- Everything `execute` can do. -/
theorem execute_cases :
    (∃ c, check (latch s) = some c ∧ execute i check ready effect s = .next (raise c (encode i) (latch s))) ∨
    (check (latch s) = none ∧ ready (latch s) = true ∧
      execute i check ready effect s = .next (complete (pathOf i (latch s)) (effect (latch s)))) ∨
    (check (latch s) = none ∧ ready (latch s) = false ∧ execute i check ready effect s = .fault .unwritten) := by
  simp only [execute]
  cases hc : check (latch s) with
  | some c => exact .inl ⟨c, rfl, rfl⟩
  | none =>
    cases hr : ready (latch s) with
    | true => exact .inr (.inl ⟨rfl, rfl, rfl⟩)
    | false => exact .inr (.inr ⟨rfl, rfl, rfl⟩)

theorem execute_raises {c : Cause} (hc : check (latch s) = some c) :
    execute i check ready effect s = .next (raise c (encode i) (latch s)) := by
  simp [execute, hc]

theorem execute_completes (hc : check (latch s) = none) (hr : ready (latch s) = true) :
    execute i check ready effect s = .next (complete (pathOf i (latch s)) (effect (latch s))) := by
  simp [execute, hc, hr]

theorem execute_unwritten (hc : check (latch s) = none) (hr : ready (latch s) = false) :
    execute i check ready effect s = .fault .unwritten := by
  simp [execute, hc, hr]

end Execute

end Sys2Proof.Machine
end

