-- ==== Sys2Proof/Laws/Exec.lean ====
section
/-!
SUPPORT. The one shape of all 39 commands: `exec i` is `execute` with the checks, the written-operand test and the
effect of `i` (`exec_eq`); what each shared operation leaves when it completes; and what `exec` can do in general.
-/

namespace Sys2Proof.Machine

/-! ## The shape of a command -/

/-- The checks of a command, in the order of R426. -/
def checkOf (i : Instr) (t : State) : Option Cause :=
  match i with
  | .subbytes n sl | .invsubbytes n sl | .shiftrows n sl | .invshiftrows n sl | .mixcolumns n sl
  | .invmixcolumns n sl | .roundnk n sl | .finalroundnk n sl | .invroundnk n sl | .invfinalroundnk n sl
  | .addroundkey n sl _ | .round n sl _ | .finalround n sl _ | .invround n sl _ | .invfinalround n sl _
  | .roundkf n sl _ | .finalroundkf n sl _ | .invroundkf n sl _ | .invfinalroundkf n sl _
  | .roundsnk n sl _ | .roundsnkfin n sl _ | .invroundsnk n sl _ | .invroundsnkfin n sl _ => checkLanes n sl
  | .rounds n sl key ri cnt | .roundsfin n sl key ri cnt | .invrounds n sl key ri cnt
  | .invroundsfin n sl key ri cnt | .roundskf n sl key ri cnt | .roundskffin n sl key ri cnt
  | .invroundskf n sl key ri cnt | .invroundskffin n sl key ri cnt =>
    checkLanes n sl <|> checkEmpty n sl key t <|> checkIndex n sl key ri cnt t
  | .encrypt n sl key v | .decrypt n sl key v =>
    checkLanes n sl <|> checkEmpty n sl key t <|> checkVariant n sl key v t
  | .keyexp _ l => if (roundsOfLength l).isSome then none else some .invalidKeyLength
  | .keyinv _ ss => if (t.ks.get ss).rounds = 0 then some .scheduleEmpty else none
  | .rkread _ _ k ri =>
    if (t.ks.get k).rounds = 0 then some .scheduleEmpty
    else if (t.ks.get k).rounds < ri then some .roundIndexOutOfRange
    else none
  | .capinit | .qhwavail | .qlanes => none

/-- The written-operand test of a command (R156, R157). -/
def readyOf (i : Instr) (t : State) : Bool :=
  match i with
  | .subbytes n sl | .invsubbytes n sl | .shiftrows n sl | .invshiftrows n sl | .mixcolumns n sl
  | .invmixcolumns n sl | .roundnk n sl | .finalroundnk n sl | .invroundnk n sl | .invfinalroundnk n sl
  | .roundsnk n sl _ | .roundsnkfin n sl _ | .invroundsnk n sl _ | .invroundsnkfin n sl _
  | .rounds n sl _ _ _ | .roundsfin n sl _ _ _ | .invrounds n sl _ _ _ | .invroundsfin n sl _ _ _
  | .roundskf n sl _ _ _ | .roundskffin n sl _ _ _ | .invroundskf n sl _ _ _ | .invroundskffin n sl _ _ _
  | .encrypt n sl _ _ | .decrypt n sl _ _ => lanesReady n sl t
  | .addroundkey n sl key | .round n sl key | .finalround n sl key | .invround n sl key
  | .invfinalround n sl key | .roundkf n sl key | .finalroundkf n sl key | .invroundkf n sl key
  | .invfinalroundkf n sl key => lanesReady n sl t && keysReady n sl key t
  | .keyexp _ l => keyBytesReady l t
  | .keyinv _ _ | .rkread _ _ _ _ | .capinit | .qhwavail | .qlanes => true

/-- The result of lane l of a datapath command; of any other command, the lane as it is. -/
def resultOf (i : Instr) (t : State) (l : Lane) : Block :=
  match i with
  | .subbytes _ _ => sub (t.st.get l)
  | .invsubbytes _ _ => isub (t.st.get l)
  | .shiftrows _ _ => shr (t.st.get l)
  | .invshiftrows _ _ => ishr (t.st.get l)
  | .mixcolumns _ _ => mix (t.st.get l)
  | .invmixcolumns _ _ => imix (t.st.get l)
  | .addroundkey _ _ key => ark (t.st.get l) (keyReg key t l)
  | .round _ _ key => rnd .std false false (t.st.get l) (keyReg key t l)
  | .finalround _ _ key => rnd .std false true (t.st.get l) (keyReg key t l)
  | .invround _ _ key => rnd .std true false (t.st.get l) (keyReg key t l)
  | .invfinalround _ _ key => rnd .std true true (t.st.get l) (keyReg key t l)
  | .roundkf _ _ key => rnd .kf false false (t.st.get l) (keyReg key t l)
  | .finalroundkf _ _ key => rnd .kf false true (t.st.get l) (keyReg key t l)
  | .invroundkf _ _ key => rnd .kf true false (t.st.get l) (keyReg key t l)
  | .invfinalroundkf _ _ key => rnd .kf true true (t.st.get l) (keyReg key t l)
  | .roundnk _ _ => rnd .nk false false (t.st.get l) Block.zero
  | .finalroundnk _ _ => rnd .nk false true (t.st.get l) Block.zero
  | .invroundnk _ _ => rnd .nk true false (t.st.get l) Block.zero
  | .invfinalroundnk _ _ => rnd .nk true true (t.st.get l) Block.zero
  | .rounds _ _ key ri cnt => batch .std false false cnt (t.st.get l) fun j => (keySlot key t l).key (ri + j)
  | .roundsfin _ _ key ri cnt => batch .std false true cnt (t.st.get l) fun j => (keySlot key t l).key (ri + j)
  | .invrounds _ _ key ri cnt => batch .std true false cnt (t.st.get l) fun j => (keySlot key t l).key (ri + j)
  | .invroundsfin _ _ key ri cnt => batch .std true true cnt (t.st.get l) fun j => (keySlot key t l).key (ri + j)
  | .roundskf _ _ key ri cnt => batch .kf false false cnt (t.st.get l) fun j => (keySlot key t l).key (ri + j)
  | .roundskffin _ _ key ri cnt => batch .kf false true cnt (t.st.get l) fun j => (keySlot key t l).key (ri + j)
  | .invroundskf _ _ key ri cnt => batch .kf true false cnt (t.st.get l) fun j => (keySlot key t l).key (ri + j)
  | .invroundskffin _ _ key ri cnt => batch .kf true true cnt (t.st.get l) fun j => (keySlot key t l).key (ri + j)
  | .roundsnk _ _ cnt => batch .nk false false cnt (t.st.get l) fun _ => Block.zero
  | .roundsnkfin _ _ cnt => batch .nk false true cnt (t.st.get l) fun _ => Block.zero
  | .invroundsnk _ _ cnt => batch .nk true false cnt (t.st.get l) fun _ => Block.zero
  | .invroundsnkfin _ _ cnt => batch .nk true true cnt (t.st.get l) fun _ => Block.zero
  | .encrypt _ _ key _ => encryptBlock (keySlot key t l).rounds (keySlot key t l).key (t.st.get l)
  | .decrypt _ _ key _ => decryptBlock (keySlot key t l).rounds (keySlot key t l).key (t.st.get l)
  | .keyexp _ _ | .keyinv _ _ | .rkread _ _ _ _ | .capinit | .qhwavail | .qlanes => t.st.get l

/-- The commit of a command that is not a datapath command. -/
def otherEffect (i : Instr) (t : State) : State :=
  match i with
  | .keyexp k l => t.writeSlot k (expand ((roundsOfLength l).getD 0) (keyBytes l t))
  | .keyinv k ss => t.writeSlot k (invSchedule (t.ks.get ss))
  | .rkread .kr dl k ri => t.writeKr dl ((t.ks.get k).key ri)
  | .rkread .st dl k ri => t.writeSt dl ((t.ks.get k).key ri)
  | .qhwavail => t.setRes (hwAvailable t.caps)
  | .qlanes => t.setRes (preferredLanes t.caps)
  | _ => t

/-- The commit of a command. -/
def effectOf (i : Instr) (t : State) : State :=
  match i.laneCount?, i.start? with
  | some n, some sl => t.commitLanes n sl (resultOf i t)
  | _, _ => otherEffect i t

/-- Every command is `execute` with its own checks, test and effect. -/
theorem exec_eq (i : Instr) (s : State) : exec i s = execute i (checkOf i) (readyOf i) (effectOf i) s := by
  cases i with
  | rkread dst => cases dst <;> rfl
  | _ => rfl

theorem exec_raises {i : Instr} {s : State} {c : Cause} (hc : checkOf i (latch s) = some c) :
    exec i s = .next (raise c (encode i) (latch s)) := by
  rw [exec_eq, execute_raises hc]

theorem exec_completes {i : Instr} {s : State} (hc : checkOf i (latch s) = none)
    (hr : readyOf i (latch s) = true) :
    exec i s = .next (complete (pathOf i (latch s)) (effectOf i (latch s))) := by
  rw [exec_eq, execute_completes hc hr]

theorem exec_unwritten {i : Instr} {s : State} (hc : checkOf i (latch s) = none)
    (hr : readyOf i (latch s) = false) : exec i s = .fault .unwritten := by
  rw [exec_eq, execute_unwritten hc hr]

/-- Everything `exec` can do. -/
theorem exec_cases (i : Instr) (s : State) :
    (∃ c, checkOf i (latch s) = some c ∧ exec i s = .next (raise c (encode i) (latch s))) ∨
    (checkOf i (latch s) = none ∧ readyOf i (latch s) = true ∧
      exec i s = .next (complete (pathOf i (latch s)) (effectOf i (latch s)))) ∨
    (checkOf i (latch s) = none ∧ readyOf i (latch s) = false ∧ exec i s = .fault .unwritten) := by
  rw [exec_eq]; exact execute_cases

/-- The test of a command fails exactly when the command reads something unwritten (R156, R157). -/
theorem readyOf_eq_false (i : Instr) (s : State) : readyOf i (latch s) = false ↔ ReadsUnwritten i s := by
  have hl : ∀ n sl, lanesReady n sl (latch s) = true ↔ LanesWritten n sl s := fun n sl =>
    lanesReady_iff.trans (by simp [LanesWritten])
  have hk : ∀ n sl key, keysReady n sl key (latch s) = true ↔ KeysWritten n sl key s := fun n sl key =>
    keysReady_iff.trans (by simp [KeysWritten])
  have hb : ∀ l, keyBytesReady l (latch s) = true ↔ ∀ j : Fin 32, j.val < l → s.wki[j] = true := fun l =>
    keyBytesReady_iff.trans (by simp)
  rw [← Bool.not_eq_true]
  cases i <;>
    simp [readyOf, ReadsUnwritten, Instr.laneCount?, Instr.start?, Instr.mnemonic, Mnemonic.cls, keyOf, hl, hk, hb,
      not_and_or, -not_and]

/-! ## Effects -/

theorem effectOf_lanes {i : Instr} {n : LaneCount} {sl : Lane} (hn : i.laneCount? = some n)
    (hsl : i.start? = some sl) (t : State) : effectOf i t = t.commitLanes n sl (resultOf i t) := by
  simp [effectOf, hn, hsl]

/-- No effect writes CAPS, FCMD, KEYIN, the configuration, the port, the reply or the count of RESETs. -/
theorem effectOf_keeps (i : Instr) (t : State) :
    (effectOf i t).caps = t.caps ∧ (effectOf i t).fcmd = t.fcmd ∧ (effectOf i t).keyin = t.keyin ∧
    (effectOf i t).wki = t.wki ∧ (effectOf i t).config = t.config ∧ (effectOf i t).port = t.port ∧
    (effectOf i t).reply = t.reply ∧ (effectOf i t).resets = t.resets := by
  cases i with
  | rkread dst => cases dst <;> exact ⟨rfl, rfl, rfl, rfl, rfl, rfl, rfl, rfl⟩
  | _ => exact ⟨rfl, rfl, rfl, rfl, rfl, rfl, rfl, rfl⟩

theorem latch_with (s : State) : latch s = { s with caps := latchedCaps s } := latch_eq s

theorem completed_complete (i : Instr) (s : State) :
    Completed i s (complete (pathOf i (latch s)) (effectOf i (latch s))) := by
  obtain ⟨hc, hf, -, -, hg, hp, hr, hn⟩ := effectOf_keeps i (latch s)
  exact ⟨by rw [complete_status, latch_with], by simp [hc], by simp [hf], by simp [hg], by simp [hp], by simp [hr],
    by simp [hn]⟩

/-- What a completed datapath command leaves. -/
theorem exec_lanesCompleted {i : Instr} {n : LaneCount} {sl : Lane} {s : State} (hn : i.laneCount? = some n)
    (hsl : i.start? = some sl) (hc : checkOf i (latch s) = none) (hr : readyOf i (latch s) = true) :
    ∃ t, exec i s = .next t ∧ LanesCompleted i n sl (resultOf i (latch s)) s t := by
  refine ⟨_, exec_completes hc hr, completed_complete i s, ?_, ?_, ?_, ?_, ?_, ?_, ?_, ?_⟩ <;>
    rw [effectOf_lanes hn hsl] <;> simp +contextual

/-- What a completed KEYEXP or KEYINV leaves. -/
theorem slotCompleted {i : Instr} {k : Lane} {q : Slot} {s : State}
    (he : effectOf i (latch s) = (latch s).writeSlot k q) :
    SlotCompleted i k q s (complete (pathOf i (latch s)) (effectOf i (latch s))) := by
  refine ⟨completed_complete i s, ?_, ?_, ?_, ?_, ?_, ?_, ?_, ?_, ?_⟩ <;> rw [he]
  case refine_2 => intro j hj; simp [Quad.get_set, hj]
  all_goals simp

/-! ## Checks -/

theorem orElse_eq_none {a b : Option Cause} : (a <|> b) = none ↔ a = none ∧ b = none := by
  cases a <;> simp

/-- A datapath command checks its lane start first. -/
theorem checkOf_misaligned {i : Instr} {n : LaneCount} {sl : Lane} (hn : i.laneCount? = some n)
    (hsl : i.start? = some sl) (h : sl.val % n.count ≠ 0) (t : State) :
    checkOf i t = some .laneOutOfRange := by
  have hc : checkLanes n sl = some .laneOutOfRange := by
    rw [checkLanes, if_neg]; rwa [laneAligned_iff]
  cases i <;> simp only [Instr.laneCount?, Instr.start?, Option.some.injEq, reduceCtorEq] at hn hsl <;>
    subst hn hsl <;> simp [checkOf, hc]

theorem checkOf_aligned {i : Instr} {n : LaneCount} {sl : Lane} (hn : i.laneCount? = some n)
    (hsl : i.start? = some sl) {t : State} (h : checkOf i t = none) : sl.val % n.count = 0 := by
  by_contra hne
  rw [checkOf_misaligned hn hsl hne] at h
  cases h

/-- The checks look at the slots' round counts and at nothing else of the state. -/
theorem checkOf_congr (i : Instr) {s t : State} (h : ∀ k : Lane, (s.ks.get k).rounds = (t.ks.get k).rounds) :
    checkOf i s = checkOf i t := by
  cases i <;>
    first
    | rfl
    | simp only [checkOf, checkEmpty, checkIndex, checkVariant, keySlot, h]; done
    | simp only [checkOf, checkEmpty, checkIndex, checkVariant, keySlot, h]; rfl

/-- The written-operand test looks at the tags and at nothing else of the state. -/
theorem readyOf_congr (i : Instr) {s t : State} (hst : s.wst = t.wst) (hkr : s.wkr = t.wkr) (hki : s.wki = t.wki) :
    readyOf i s = readyOf i t := by
  cases i <;> simp only [readyOf, lanesReady, keysReady, keyBytesReady, hst, hkr, hki]

/-- A datapath command that passes its test reads written lanes only. -/
theorem readyOf_lanes {i : Instr} {n : LaneCount} {sl : Lane} (hn : i.laneCount? = some n)
    (hsl : i.start? = some sl) {t : State} (h : readyOf i t = true) : LanesWritten n sl t := by
  cases i <;> simp only [Instr.laneCount?, Instr.start?, Option.some.injEq, reduceCtorEq] at hn hsl <;>
    subst hn hsl <;> simp only [readyOf, Bool.and_eq_true] at h <;>
    first
    | exact lanesReady_iff.1 h
    | exact lanesReady_iff.1 h.1

/-! ## Causes and STATUS -/

@[simp] theorem code_ne_zero (c : Cause) : c.code ≠ 0#8 := by
  cases c <;> decide

theorem causeField_raise (c : Cause) (cw : Word) (s : State) : causeField (raise c cw s).status = c.code := by
  simp

theorem causeField_complete (p : Path) (s : State) : causeField (complete p s).status = 0 := by
  simp

/-- A next state with CAUSE 0 is that of a completed command. -/
theorem exec_next_zero {i : Instr} {s t : State} (h : exec i s = .next t) (hz : causeField t.status = 0) :
    checkOf i (latch s) = none ∧ readyOf i (latch s) = true ∧
      t = complete (pathOf i (latch s)) (effectOf i (latch s)) := by
  obtain ⟨c, -, he⟩ | ⟨hc, hr, he⟩ | ⟨-, -, he⟩ := exec_cases i s <;> rw [he] at h <;> cases h
  · exact absurd hz (by rw [causeField_raise]; exact code_ne_zero c)
  · exact ⟨hc, hr, rfl⟩

/-! ## Sequences of commands that complete -/

theorem Completed.causeField_eq {i : Instr} {s t : State} (h : Completed i s t) : causeField t.status = 0 := by
  rw [h.status]; simp

@[simp] theorem allComplete_nil (s t : State) : AllComplete [] s t ↔ t = s := Iff.rfl

@[simp] theorem allComplete_cons (i : Instr) (is : List Instr) (s t : State) :
    AllComplete (i :: is) s t ↔ ∃ u, exec i s = .next u ∧ causeField u.status = 0 ∧ AllComplete is u t := Iff.rfl

theorem AllComplete.append {a b : List Instr} {s t u : State} (h : AllComplete a s t) (h' : AllComplete b t u) :
    AllComplete (a ++ b) s u := by
  induction a generalizing s with
  | nil => cases h; exact h'
  | cons i a ih =>
    obtain ⟨w, hw, hz, h⟩ := h
    exact ⟨w, hw, hz, ih h⟩

end Sys2Proof.Machine
end

