-- ==== Sys2Proof/Laws/PerInstr.lean ====
section
/-!
SUPPORT. A fact about every instruction as syntax, one lemma per constructor: the encoder writes the opcode that the
opcode map gives the mnemonic (R104), and 0 in every bit the mnemonic's class does not use (R106), whatever the
operands.
-/

namespace Sys2Proof

theorem append_zero_eq_fields (op : BitVec 8) : op ++ (0 : BitVec 24) = fields op 0 0 0 0 0 0 := by
  apply BitVec.eq_of_toNat_eq
  simp only [toNat_fields, toNat_append_add]
  simp

/-- A word and a mask are the word of the opcode alone, field by field. -/
theorem and_eq_of_fields {op : BitVec 8} {cw m : Word} (hop : opField cw &&& opField m = op)
    (hln : lnField cw &&& lnField m = 0) (hsl : slField cw &&& slField m = 0) (hb : bField cw &&& bField m = 0)
    (hk : kField cw &&& kField m = 0) (hri : riField cw &&& riField m = 0)
    (hx : cw.extractLsb' 0 13 &&& m.extractLsb' 0 13 = 0) : cw &&& m = op ++ (0 : BitVec 24) := by
  rw [append_zero_eq_fields]
  have h : ∀ lo n, (cw &&& m).extractLsb' lo n = cw.extractLsb' lo n &&& m.extractLsb' lo n :=
    fun lo n => BitVec.extractLsb'_and
  apply word_ext
  · rw [opField_fields]; exact (h ..).trans hop
  · rw [lnField_fields]; exact (h ..).trans hln
  · rw [slField_fields]; exact (h ..).trans hsl
  · rw [bField_fields]; exact (h ..).trans hb
  · rw [kField_fields]; exact (h ..).trans hk
  · rw [riField_fields]; exact (h ..).trans hri
  · rw [xField_fields]; exact (h ..).trans hx

section Masks

variable (op : BitVec 8) (ln sl : BitVec 2) (b : BitVec 1) (k : BitVec 2) (ri : BitVec 4)

theorem mask_lanes :
    fields op ln sl 0 0 0 0 &&& Class.t.mask = op ++ (0 : BitVec 24) := by
  apply and_eq_of_fields
  · rw [opField_fields, show opField Class.t.mask = BitVec.allOnes 8 by decide, BitVec.and_allOnes]
  · rw [lnField_fields, show lnField Class.t.mask = 0 by decide]; exact BitVec.and_zero
  · rw [slField_fields, show slField Class.t.mask = 0 by decide]; exact BitVec.and_zero
  · rw [bField_fields]; exact BitVec.zero_and
  · rw [kField_fields]; exact BitVec.zero_and
  · rw [riField_fields]; exact BitVec.zero_and
  · rw [xField_fields]; exact BitVec.zero_and

theorem mask_keyed :
    fields op ln sl b k 0 0 &&& Class.tk.mask = op ++ (0 : BitVec 24) := by
  apply and_eq_of_fields
  · rw [opField_fields, show opField Class.tk.mask = BitVec.allOnes 8 by decide, BitVec.and_allOnes]
  · rw [lnField_fields, show lnField Class.tk.mask = 0 by decide]; exact BitVec.and_zero
  · rw [slField_fields, show slField Class.tk.mask = 0 by decide]; exact BitVec.and_zero
  · rw [bField_fields, show bField Class.tk.mask = 0 by decide]; exact BitVec.and_zero
  · rw [kField_fields, show kField Class.tk.mask = 0 by decide]; exact BitVec.and_zero
  · rw [riField_fields]; exact BitVec.zero_and
  · rw [xField_fields]; exact BitVec.zero_and

theorem mask_batchedKeyed (nc : BitVec 3) :
    fields op ln sl b k ri (nc ++ (0 : BitVec 10)) &&& Class.bk.mask = op ++ (0 : BitVec 24) := by
  apply and_eq_of_fields
  · rw [opField_fields, show opField Class.bk.mask = BitVec.allOnes 8 by decide, BitVec.and_allOnes]
  · rw [lnField_fields, show lnField Class.bk.mask = 0 by decide]; exact BitVec.and_zero
  · rw [slField_fields, show slField Class.bk.mask = 0 by decide]; exact BitVec.and_zero
  · rw [bField_fields, show bField Class.bk.mask = 0 by decide]; exact BitVec.and_zero
  · rw [kField_fields, show kField Class.bk.mask = 0 by decide]; exact BitVec.and_zero
  · rw [riField_fields, show riField Class.bk.mask = 0 by decide]; exact BitVec.and_zero
  · rw [xField_fields]; revert nc; decide

theorem mask_batched (nc : BitVec 3) :
    fields op ln sl 0 0 0 (nc ++ (0 : BitVec 10)) &&& Class.bn.mask = op ++ (0 : BitVec 24) := by
  apply and_eq_of_fields
  · rw [opField_fields, show opField Class.bn.mask = BitVec.allOnes 8 by decide, BitVec.and_allOnes]
  · rw [lnField_fields, show lnField Class.bn.mask = 0 by decide]; exact BitVec.and_zero
  · rw [slField_fields, show slField Class.bn.mask = 0 by decide]; exact BitVec.and_zero
  · rw [bField_fields]; exact BitVec.zero_and
  · rw [kField_fields]; exact BitVec.zero_and
  · rw [riField_fields]; exact BitVec.zero_and
  · rw [xField_fields]; revert nc; decide

theorem mask_cipher (v : BitVec 2) :
    fields op ln sl b k 0 (v ++ (0 : BitVec 11)) &&& Class.c.mask = op ++ (0 : BitVec 24) := by
  apply and_eq_of_fields
  · rw [opField_fields, show opField Class.c.mask = BitVec.allOnes 8 by decide, BitVec.and_allOnes]
  · rw [lnField_fields, show lnField Class.c.mask = 0 by decide]; exact BitVec.and_zero
  · rw [slField_fields, show slField Class.c.mask = 0 by decide]; exact BitVec.and_zero
  · rw [bField_fields, show bField Class.c.mask = 0 by decide]; exact BitVec.and_zero
  · rw [kField_fields, show kField Class.c.mask = 0 by decide]; exact BitVec.and_zero
  · rw [riField_fields]; exact BitVec.zero_and
  · rw [xField_fields]; revert v; decide

theorem mask_keyexp (l : BitVec 6) :
    fields op 0 0 0 k 0 (l ++ (0 : BitVec 7)) &&& Class.kexp.mask = op ++ (0 : BitVec 24) := by
  apply and_eq_of_fields
  · rw [opField_fields, show opField Class.kexp.mask = BitVec.allOnes 8 by decide, BitVec.and_allOnes]
  · rw [lnField_fields]; exact BitVec.zero_and
  · rw [slField_fields]; exact BitVec.zero_and
  · rw [bField_fields]; exact BitVec.zero_and
  · rw [kField_fields, show kField Class.kexp.mask = 0 by decide]; exact BitVec.and_zero
  · rw [riField_fields]; exact BitVec.zero_and
  · rw [xField_fields]; revert l; decide

theorem mask_keyinv (ss : BitVec 2) :
    fields op 0 0 0 k 0 (ss ++ (0 : BitVec 11)) &&& Class.kinv.mask = op ++ (0 : BitVec 24) := by
  apply and_eq_of_fields
  · rw [opField_fields, show opField Class.kinv.mask = BitVec.allOnes 8 by decide, BitVec.and_allOnes]
  · rw [lnField_fields]; exact BitVec.zero_and
  · rw [slField_fields]; exact BitVec.zero_and
  · rw [bField_fields]; exact BitVec.zero_and
  · rw [kField_fields, show kField Class.kinv.mask = 0 by decide]; exact BitVec.and_zero
  · rw [riField_fields]; exact BitVec.zero_and
  · rw [xField_fields]; revert ss; decide

theorem mask_rkread (dl : BitVec 2) (d : BitVec 1) :
    fields op 0 0 0 k ri (dl ++ d ++ (0 : BitVec 10)) &&& Class.rkr.mask = op ++ (0 : BitVec 24) := by
  apply and_eq_of_fields
  · rw [opField_fields, show opField Class.rkr.mask = BitVec.allOnes 8 by decide, BitVec.and_allOnes]
  · rw [lnField_fields]; exact BitVec.zero_and
  · rw [slField_fields]; exact BitVec.zero_and
  · rw [bField_fields]; exact BitVec.zero_and
  · rw [kField_fields, show kField Class.rkr.mask = 0 by decide]; exact BitVec.and_zero
  · rw [riField_fields, show riField Class.rkr.mask = 0 by decide]; exact BitVec.and_zero
  · rw [xField_fields]; revert dl d; decide

end Masks

/-- R104, R106: the encoding of `i` lies in the encoding space of its mnemonic. -/
def Laws.EncodedOpcode.Statement (i : Instr) : Prop :=
  opField (encode i) = i.mnemonic.op ∧ encode i &&& i.mnemonic.cls.mask = i.mnemonic.pattern

namespace Laws.EncodedOpcode

theorem subbytes (n : LaneCount) (sl : Lane) : Statement (.subbytes n sl) :=
  ⟨opField_fields .. , mask_lanes _ _ _⟩

theorem invsubbytes (n : LaneCount) (sl : Lane) : Statement (.invsubbytes n sl) :=
  ⟨opField_fields .. , mask_lanes _ _ _⟩

theorem shiftrows (n : LaneCount) (sl : Lane) : Statement (.shiftrows n sl) :=
  ⟨opField_fields .. , mask_lanes _ _ _⟩

theorem invshiftrows (n : LaneCount) (sl : Lane) : Statement (.invshiftrows n sl) :=
  ⟨opField_fields .. , mask_lanes _ _ _⟩

theorem mixcolumns (n : LaneCount) (sl : Lane) : Statement (.mixcolumns n sl) :=
  ⟨opField_fields .. , mask_lanes _ _ _⟩

theorem invmixcolumns (n : LaneCount) (sl : Lane) : Statement (.invmixcolumns n sl) :=
  ⟨opField_fields .. , mask_lanes _ _ _⟩

theorem addroundkey (n : LaneCount) (sl : Lane) (key : KeySel) : Statement (.addroundkey n sl key) :=
  ⟨opField_fields .. , mask_keyed _ _ _ _ _⟩

theorem round (n : LaneCount) (sl : Lane) (key : KeySel) : Statement (.round n sl key) :=
  ⟨opField_fields .. , mask_keyed _ _ _ _ _⟩

theorem finalround (n : LaneCount) (sl : Lane) (key : KeySel) : Statement (.finalround n sl key) :=
  ⟨opField_fields .. , mask_keyed _ _ _ _ _⟩

theorem invround (n : LaneCount) (sl : Lane) (key : KeySel) : Statement (.invround n sl key) :=
  ⟨opField_fields .. , mask_keyed _ _ _ _ _⟩

theorem invfinalround (n : LaneCount) (sl : Lane) (key : KeySel) : Statement (.invfinalround n sl key) :=
  ⟨opField_fields .. , mask_keyed _ _ _ _ _⟩

theorem roundkf (n : LaneCount) (sl : Lane) (key : KeySel) : Statement (.roundkf n sl key) :=
  ⟨opField_fields .. , mask_keyed _ _ _ _ _⟩

theorem finalroundkf (n : LaneCount) (sl : Lane) (key : KeySel) : Statement (.finalroundkf n sl key) :=
  ⟨opField_fields .. , mask_keyed _ _ _ _ _⟩

theorem invroundkf (n : LaneCount) (sl : Lane) (key : KeySel) : Statement (.invroundkf n sl key) :=
  ⟨opField_fields .. , mask_keyed _ _ _ _ _⟩

theorem invfinalroundkf (n : LaneCount) (sl : Lane) (key : KeySel) : Statement (.invfinalroundkf n sl key) :=
  ⟨opField_fields .. , mask_keyed _ _ _ _ _⟩

theorem roundnk (n : LaneCount) (sl : Lane) : Statement (.roundnk n sl) :=
  ⟨opField_fields .. , mask_lanes _ _ _⟩

theorem finalroundnk (n : LaneCount) (sl : Lane) : Statement (.finalroundnk n sl) :=
  ⟨opField_fields .. , mask_lanes _ _ _⟩

theorem invroundnk (n : LaneCount) (sl : Lane) : Statement (.invroundnk n sl) :=
  ⟨opField_fields .. , mask_lanes _ _ _⟩

theorem invfinalroundnk (n : LaneCount) (sl : Lane) : Statement (.invfinalroundnk n sl) :=
  ⟨opField_fields .. , mask_lanes _ _ _⟩

theorem rounds (n : LaneCount) (sl : Lane) (key : KeySel) (ri cnt : Nat) : Statement (.rounds n sl key ri cnt) :=
  ⟨opField_fields .. , mask_batchedKeyed _ _ _ _ _ _ _⟩

theorem roundsfin (n : LaneCount) (sl : Lane) (key : KeySel) (ri cnt : Nat) : Statement (.roundsfin n sl key ri cnt) :=
  ⟨opField_fields .. , mask_batchedKeyed _ _ _ _ _ _ _⟩

theorem invrounds (n : LaneCount) (sl : Lane) (key : KeySel) (ri cnt : Nat) : Statement (.invrounds n sl key ri cnt) :=
  ⟨opField_fields .. , mask_batchedKeyed _ _ _ _ _ _ _⟩

theorem invroundsfin (n : LaneCount) (sl : Lane) (key : KeySel) (ri cnt : Nat) : Statement (.invroundsfin n sl key ri cnt) :=
  ⟨opField_fields .. , mask_batchedKeyed _ _ _ _ _ _ _⟩

theorem roundskf (n : LaneCount) (sl : Lane) (key : KeySel) (ri cnt : Nat) : Statement (.roundskf n sl key ri cnt) :=
  ⟨opField_fields .. , mask_batchedKeyed _ _ _ _ _ _ _⟩

theorem roundskffin (n : LaneCount) (sl : Lane) (key : KeySel) (ri cnt : Nat) : Statement (.roundskffin n sl key ri cnt) :=
  ⟨opField_fields .. , mask_batchedKeyed _ _ _ _ _ _ _⟩

theorem invroundskf (n : LaneCount) (sl : Lane) (key : KeySel) (ri cnt : Nat) : Statement (.invroundskf n sl key ri cnt) :=
  ⟨opField_fields .. , mask_batchedKeyed _ _ _ _ _ _ _⟩

theorem invroundskffin (n : LaneCount) (sl : Lane) (key : KeySel) (ri cnt : Nat) : Statement (.invroundskffin n sl key ri cnt) :=
  ⟨opField_fields .. , mask_batchedKeyed _ _ _ _ _ _ _⟩

theorem roundsnk (n : LaneCount) (sl : Lane) (cnt : Nat) : Statement (.roundsnk n sl cnt) :=
  ⟨opField_fields .. , mask_batched _ _ _ _⟩

theorem roundsnkfin (n : LaneCount) (sl : Lane) (cnt : Nat) : Statement (.roundsnkfin n sl cnt) :=
  ⟨opField_fields .. , mask_batched _ _ _ _⟩

theorem invroundsnk (n : LaneCount) (sl : Lane) (cnt : Nat) : Statement (.invroundsnk n sl cnt) :=
  ⟨opField_fields .. , mask_batched _ _ _ _⟩

theorem invroundsnkfin (n : LaneCount) (sl : Lane) (cnt : Nat) : Statement (.invroundsnkfin n sl cnt) :=
  ⟨opField_fields .. , mask_batched _ _ _ _⟩

theorem encrypt (n : LaneCount) (sl : Lane) (key : KeySel) (v : Variant) : Statement (.encrypt n sl key v) :=
  ⟨opField_fields .. , mask_cipher _ _ _ _ _ _⟩

theorem decrypt (n : LaneCount) (sl : Lane) (key : KeySel) (v : Variant) : Statement (.decrypt n sl key v) :=
  ⟨opField_fields .. , mask_cipher _ _ _ _ _ _⟩

theorem keyexp (k : Lane) (l : Nat) : Statement (.keyexp k l) :=
  ⟨opField_fields .. , mask_keyexp _ _ _⟩

theorem keyinv (k ss : Lane) : Statement (.keyinv k ss) :=
  ⟨opField_fields .. , mask_keyinv _ _ _⟩

theorem rkread (dst : RegFile) (dl k : Lane) (ri : Nat) : Statement (.rkread dst dl k ri) :=
  ⟨opField_fields .. , mask_rkread _ _ _ _ _⟩

theorem capinit : Statement (.capinit) :=
  ⟨by decide, by decide⟩

theorem qhwavail : Statement (.qhwavail) :=
  ⟨by decide, by decide⟩

theorem qlanes : Statement (.qlanes) :=
  ⟨by decide, by decide⟩

end Laws.EncodedOpcode

end Sys2Proof
end

