-- ==== Sys2Proof/Laws/Port.lean ====
section
/-!
SUPPORT. What a step can do, said once: which operation it takes, and what each accepted operation leaves.
-/

namespace Sys2Proof.Machine

/-- The state in which the head operation is performed: the operation taken off the port, no reply yet. -/
def taken (s : State) (rest : List HostOp) : State := { s with port := rest, reply := .none }

theorem step_cons {s : State} {op : HostOp} {rest : List HostOp} (h : s.port = op :: rest) :
    step s = present op (taken s rest) := by
  simp only [step, takeNext, h, taken]

theorem step_nil {s : State} (h : s.port = []) : step s = .next s := by
  simp only [step, takeNext, h]

theorem present_not_halted {op : HostOp} {s : State} (h : halted s = false) : present op s = perform op s := by
  simp [present, h]

theorem present_accepted {op : HostOp} {s : State} (h : acceptedInHalted op = true) :
    present op s = perform op s := by
  simp [present, h]

theorem present_refused {op : HostOp} {s : State} (h : halted s = true) (ha : acceptedInHalted op = false) :
    present op s = .refused .halted := by
  simp [present, h, ha]

theorem present_next {op : HostOp} {s t : State} (h : present op s = .next t) :
    (halted s = true → acceptedInHalted op = true) ∧ perform op s = .next t := by
  unfold present at h
  cases hh : halted s <;> cases ha : acceptedInHalted op <;> simp_all

/-- Everything a step that answers a next state can do. -/
theorem step_cases {s t : State} (h : step s = .next t) :
    (s.port = [] ∧ t = s) ∨
    ∃ op rest, s.port = op :: rest ∧ (halted s = true → acceptedInHalted op = true) ∧
      perform op (taken s rest) = .next t := by
  cases hp : s.port with
  | nil => rw [step_nil hp] at h; cases h; exact .inl ⟨rfl, rfl⟩
  | cons op rest =>
    rw [step_cons hp] at h
    exact .inr ⟨op, rest, rfl, present_next h⟩

theorem withPortLane_lt {i : Nat} {s : State} {access : Lane → Result} (h : i < 4) :
    withPortLane i s access = access ⟨i, h⟩ := by
  simp [withPortLane, h]

theorem withPortLane_lane {l : Lane} {s : State} {access : Lane → Result} :
    withPortLane l.val s access = access l := by
  rw [withPortLane_lt l.isLt]

theorem withPortLane_out {i : Nat} {s : State} {access : Lane → Result} (h : 3 < i) :
    withPortLane i s access = .next (hostFatal s) := by
  rw [withPortLane, dif_neg (by omega)]

/-- Everything an accepted operation that answers a next state can do. -/
inductive Performed (s : State) : HostOp → State → Prop where
  | writeSt (l : Lane) (v : Block) : Performed s (.writeSt l.val v) (s.writeSt l v)
  | writeKr (l : Lane) (v : Block) : Performed s (.writeKr l.val v) (s.writeKr l v)
  | writeKeyin {b : List Byte} : b.length ≤ 32 → Performed s (.writeKeyin b) (s.writeKeyin b)
  | hostFatal {op : HostOp} : acceptedInHalted op = false → (∀ cw, op ≠ .issue cw) → op ≠ .readCaps →
      Performed s op (hostFatal s)
  | readSt (l : Lane) : s.wst.get l = true → Performed s (.readSt l.val) (s.setReply (.block (s.st.get l)))
  | readKr (l : Lane) : s.wkr.get l = true → Performed s (.readKr l.val) (s.setReply (.block (s.kr.get l)))
  | readCaps : Performed s .readCaps ((latch s).setReply (.word (latch s).caps))
  | readStatus : Performed s .readStatus (s.setReply (.word s.status))
  | readFcmd : Performed s .readFcmd (s.setReply (.word s.fcmd))
  | readRes : Performed s .readRes (s.setReply (.word s.res))
  | illegal {cw : Word} {why : Illegal} : decode cw = .error why →
      Performed s (.issue cw) (raise .illegalCommand cw (latch s))
  | command {cw : Word} {i : Instr} {t : State} : decode cw = .ok i → exec i s = .next t →
      Performed s (.issue cw) t
  | reset : Performed s .reset (resetEngine s)

theorem performed_of_next {op : HostOp} {s t : State} (h : perform op s = .next t) : Performed s op t := by
  cases op with
  | writeSt i v =>
    by_cases hi : i < 4
    · simp only [perform, withPortLane_lt hi] at h; cases h; exact .writeSt ⟨i, hi⟩ v
    · simp only [perform, withPortLane_out (by omega : 3 < i)] at h; cases h
      exact .hostFatal rfl (by simp) (by simp)
  | writeKr i v =>
    by_cases hi : i < 4
    · simp only [perform, withPortLane_lt hi] at h; cases h; exact .writeKr ⟨i, hi⟩ v
    · simp only [perform, withPortLane_out (by omega : 3 < i)] at h; cases h
      exact .hostFatal rfl (by simp) (by simp)
  | readSt i =>
    by_cases hi : i < 4
    · simp only [perform, withPortLane_lt hi, readLane] at h
      split at h <;> cases h
      exact .readSt ⟨i, hi⟩ ‹_›
    · simp only [perform, withPortLane_out (by omega : 3 < i)] at h; cases h
      exact .hostFatal rfl (by simp) (by simp)
  | readKr i =>
    by_cases hi : i < 4
    · simp only [perform, withPortLane_lt hi, readLane] at h
      split at h <;> cases h
      exact .readKr ⟨i, hi⟩ ‹_›
    · simp only [perform, withPortLane_out (by omega : 3 < i)] at h; cases h
      exact .hostFatal rfl (by simp) (by simp)
  | writeKeyin b =>
    simp only [perform] at h
    split at h <;> cases h
    · exact .writeKeyin ‹_›
    · exact .hostFatal rfl (by simp) (by simp)
  | readCaps => cases h; exact .readCaps
  | readStatus => cases h; exact .readStatus
  | readFcmd => cases h; exact .readFcmd
  | readRes => cases h; exact .readRes
  | reset => cases h; exact .reset
  | issue cw =>
    simp only [perform, issueWord] at h
    cases hd : decode cw with
    | error why => rw [hd] at h; cases h; exact .illegal hd
    | ok i => rw [hd] at h; exact .command hd h

/-- A step that answers a next state, with what the operation did. -/
theorem step_performed {s t : State} (h : step s = .next t) :
    (s.port = [] ∧ t = s) ∨
    ∃ op rest, s.port = op :: rest ∧ (halted s = true → acceptedInHalted op = true) ∧
      Performed (taken s rest) op t := by
  obtain h | ⟨op, rest, hp, ha, h⟩ := step_cases h
  · exact .inl h
  · exact .inr ⟨op, rest, hp, ha, performed_of_next h⟩

end Sys2Proof.Machine
end

