-- ==== Sys2Proof/Tests/Slice0.lean ====
section
/-!
SUPPORT. Tests of the model: the well-formedness smoke, decoding, one step of each command, and a witness for the
hypotheses of each obligation. The expected values are the spec's: the worked encodings of R114, the words and results
of the command rules, and 95_test_vectors.md (section numbers in the comments).
-/

namespace Sys2Proof.Machine.Tests

/-! ## Helper states and checks -/

/-- P, I, Z and F of 95_test_vectors.md. -/
def blockP : Block := .ofHex 0x00112233445566778899aabbccddeeff
def blockI : Block := .ofHex 0x000102030405060708090a0b0c0d0e0f
def blockZ : Block := .zero
def blockF : Block := .ofHex 0xffffffffffffffffffffffffffffffff

/-- The bytes of an n-byte key written in hexadecimal. -/
def keyOfHex (n h : Nat) : List Byte := (List.range n).map fun j => BitVec.ofNat 8 (h >>> (8 * (n - 1 - j)))

/-- Section 2.5: the schedule of K128. -/
def slot128 : Slot where
  rounds := 10
  rk := ([0x2b7e151628aed2a6abf7158809cf4f3c, 0xa0fafe1788542cb123a339392a6c7605, 0xf2c295f27a96b9435935807a7359f67f, 0x3d80477d4716fe3e1e237e446d7a883b] ++
    [0xef44a541a8525b7fb671253bdb0bad00, 0xd4d1c6f87c839d87caf2b8bc11f915bc, 0x6d88a37a110b3efddbf98641ca0093fd, 0x4e54f70e5f5fc9f384a64fb24ea6dc4f] ++
    [0xead27321b58dbad2312bf5607f8d292f, 0xac7766f319fadc2128d12941575c006e, 0xd014f9a8c9ee2589e13f0cc8b6630ca6]).map Block.ofHex

/-- Section 2.5: its inverse schedule. -/
def inv128 : Slot where
  rounds := 10
  rk := ([0xd014f9a8c9ee2589e13f0cc8b6630ca6, 0x0c7b5a631319eafeb0398890664cfbb4, 0xdf7d925a1f62b09da320626ed6757324, 0x12c07647c01f22c7bc42d2f37555114a] ++
    [0x6efcd876d2df54807c5df034c917c3b9, 0x6ea30afcbc238cf6ae82a4b4b54a338d, 0x90884413d280860a12a128421bc89739, 0x7c1f13f74208c219c021ae480969bf7b] ++
    [0xcc7505eb3e17d1ee82296c51c9481133, 0x2b3708a7f262d405bc3ebdbf4b617d62, 0x2b7e151628aed2a6abf7158809cf4f3c]).map Block.ofHex

/-- The state after RESET of an instance with the given probe and the default HW_ELIGIBLE. -/
def fresh (p : Probe) : State := { State.reset with config := ⟨p, Config.defaultEligible⟩ }

def noHw : Probe := ⟨false, false, false, false⟩

/-- Every lane, key register and key byte written; KS[0] the schedule of K128, KS[1] its inverse, KS[2] it again, KS[3]
empty. -/
def full : State := { fresh noHw with
  st := ⟨blockP, blockI, blockZ, blockF⟩
  wst := ⟨true, true, true, true⟩
  kr := ⟨blockI, blockI, blockI, blockP⟩
  wkr := ⟨true, true, true, true⟩
  keyin := Vector.ofFn fun j => (keyOfHex 32 0x2b7e151628aed2a6abf7158809cf4f3c00000000000000000000000000000000).getD j.val 0
  wki := Vector.replicate 32 true
  ks := ⟨slot128, inv128, slot128, ⟨0, []⟩⟩ }

/-- `full` with all four slots filled. -/
def filled : State := { full with ks := ⟨slot128, inv128, slot128, inv128⟩ }

/-- `full` with the operation pending. -/
def withOp (op : HostOp) : State := { full with port := [op] }

/-- A HALTED state with the operations pending. -/
def haltedWith (ops : List HostOp) : State := { full with status := 0x00001402, fcmd := 0x41041800, port := ops }

/-- The result is a next state that passes the check. -/
def leaves (r : Result) (ok : State → Bool) : Bool :=
  match r with
  | .next t => ok t
  | .fault _ => false
  | .refused _ => false

def stops (r : Result) : Bool :=
  match r with
  | .next _ => false
  | .fault .unwritten => true
  | .refused _ => false

def refuses (r : Result) : Bool :=
  match r with
  | .next _ => false
  | .fault _ => false
  | .refused x => decide (x = .halted)

/-- A command on `full` completes with ST[0] the block. -/
def gives (i : Instr) (b : Nat) : Bool :=
  leaves (exec i full) fun t => decide (t.st.get 0 = Block.ofHex b) && decide (t.status = 0)

/-- A command on a state ends with this STATUS and, for a Fatal, its word in FCMD, and no lane or slot changed. -/
def faults (i : Instr) (s : State) (status cw : Word) : Bool :=
  leaves (exec i s) fun t =>
    decide (t.status = status) && decide (t.fcmd = cw) && decide (t.st = s.st) && decide (t.ks = s.ks)

/-- The decoder reads the instruction from the table word. -/
def reads (w : Nat) (i : Instr) : Bool := decide (decodeTableWord 32 w = some i)

def illegal (w : Nat) : Bool := decide (decodeTableWord 32 w = none)

/-! ## Well-formedness: one ill-formed term for each check (R111) -/

theorem test_wf_refuses_count_5 : (Instr.rounds .one 0 (.broadcast 0) 0 5).wf = false := by decide
theorem test_wf_refuses_count_0_nokey : (Instr.roundsnk .one 0 0).wf = false := by decide
theorem test_wf_refuses_index_16 : (Instr.roundsfin .one 0 .perLane 16 4).wf = false := by decide
theorem test_wf_refuses_rkread_index_16 : (Instr.rkread .kr 0 0 16).wf = false := by decide
theorem test_wf_refuses_length_64 : (Instr.keyexp 0 64).wf = false := by decide
theorem test_wf_accepts_boundaries :
    (Instr.rounds .four 3 .perLane 15 14).wf && (Instr.rkread .st 3 3 15).wf && (Instr.keyexp 3 63).wf = true := by
  decide

/-! ## Decoding: every constructor from a word written out in the spec (R114, and the examples of its rule) -/

theorem test_decode_transforms :
    reads 0x01800000 (.subbytes .four 0) &&
    reads 0x01300000 (.subbytes .one 3) &&
    reads 0x02000000 (.invsubbytes .one 0) &&
    reads 0x03000000 (.shiftrows .one 0) &&
    reads 0x04000000 (.invshiftrows .one 0) &&
    reads 0x05000000 (.mixcolumns .one 0) &&
    reads 0x06300000 (.invmixcolumns .one 3) &&
    reads 0x071C0000 (.addroundkey .one 1 (.broadcast 2)) &&
    reads 0x07600000 (.addroundkey .two 2 .perLane) = true := by
  decide

theorem test_decode_rounds :
    reads 0x101A0000 (.round .one 1 (.broadcast 1)) &&
    reads 0x10800000 (.round .four 0 .perLane) &&
    reads 0x11080000 (.finalround .one 0 (.broadcast 0)) &&
    reads 0x12080000 (.invround .one 0 (.broadcast 0)) &&
    reads 0x13080000 (.invfinalround .one 0 (.broadcast 0)) &&
    reads 0x14080000 (.roundkf .one 0 (.broadcast 0)) &&
    reads 0x15800000 (.finalroundkf .four 0 .perLane) &&
    reads 0x16080000 (.invroundkf .one 0 (.broadcast 0)) &&
    reads 0x17080000 (.invfinalroundkf .one 0 (.broadcast 0)) &&
    reads 0x18800000 (.roundnk .four 0) &&
    reads 0x19000000 (.finalroundnk .one 0) &&
    reads 0x1A000000 (.invroundnk .one 0) &&
    reads 0x1B000000 (.invfinalroundnk .one 0) = true := by
  decide

theorem test_decode_batched :
    reads 0x20184000 (.rounds .one 1 (.broadcast 0) 2 4) &&
    reads 0x21082C00 (.roundsfin .one 0 (.broadcast 0) 1 10) &&
    reads 0x22082000 (.invrounds .one 0 (.broadcast 0) 1 4) &&
    reads 0x230A3400 (.invroundsfin .one 0 (.broadcast 1) 1 14) &&
    reads 0x24082400 (.roundskf .one 0 (.broadcast 0) 1 6) &&
    reads 0x25082800 (.roundskffin .one 0 (.broadcast 0) 1 7) &&
    reads 0x26082000 (.invroundskf .one 0 (.broadcast 0) 1 4) &&
    reads 0x27082000 (.invroundskffin .one 0 (.broadcast 0) 1 4) &&
    reads 0x28001400 (.roundsnk .one 0 14) &&
    reads 0x29600800 (.roundsnkfin .two 2 7) &&
    reads 0x2A000000 (.invroundsnk .one 0 4) &&
    reads 0x2B000000 (.invroundsnkfin .one 0 4) = true := by
  decide

theorem test_decode_ciphers :
    reads 0x30080800 (.encrypt .one 0 (.broadcast 0) .aes128) &&
    reads 0x300E1800 (.encrypt .one 0 (.broadcast 3) .aes256) &&
    reads 0x30400000 (.encrypt .two 0 .perLane .any) &&
    reads 0x310A1000 (.decrypt .one 0 (.broadcast 1) .aes192) = true := by
  decide

theorem test_decode_keys_and_system :
    reads 0x40061000 (.keyexp 3 32) &&
    reads 0x40001F80 (.keyexp 0 63) &&
    reads 0x41041800 (.keyinv 2 3) &&
    reads 0x4205DC00 (.rkread .st 3 2 14) &&
    reads 0x42014000 (.rkread .kr 0 0 10) &&
    reads 0x50000000 (.capinit) &&
    reads 0x51000000 (.qhwavail) &&
    reads 0x52000000 (.qlanes) = true := by
  decide

/-- R107: the words the rule names as ILLEGAL. -/
theorem test_decode_illegal :
    illegal 0x00000000 &&
    illegal 0x10C00000 &&
    illegal 0x10020000 &&
    illegal 0x01080000 &&
    illegal 0x01000001 &&
    illegal 0x20001800 &&
    illegal 0x50000001 &&
    illegal 0x43000000 &&
    illegal 0xFF000000 = true := by
  decide

/-- The decoder sees the first four bytes in the order of bit 31 first. -/
theorem test_encode_rounds : encode (.rounds .one 1 (.broadcast 0) 2 4) = 0x20184000 := by decide

/-- From reset, the placed word is the very next command: QHWAVAIL has no path and no cause. -/
theorem test_withFetchWord_runs :
    leaves (step (State.reset.withFetchWord 32 0x51000000)) (fun t => decide (t.status = 0) && decide (t.port = [])) = true := by
  decide

/-! ## One step of each command (sections 2.2, 2.3, 2.6) -/

theorem test_subbytes : gives (.subbytes .one 0) 0x638293c31bfc33f5c4eeacea4bc12816 = true := by decide
theorem test_invsubbytes : gives (.invsubbytes .one 0) 0x52e3946686edd30297f962fe27c9997d = true := by decide
theorem test_shiftrows : gives (.shiftrows .one 0) 0x0055aaff4499ee3388dd2277cc1166bb = true := by decide
theorem test_invshiftrows : gives (.invshiftrows .one 0) 0x00ddaa774411eebb885522ffcc996633 = true := by decide
theorem test_mixcolumns : gives (.mixcolumns .one 0) 0x2277005566334411aaff88ddeebbcc99 = true := by decide
theorem test_invmixcolumns : gives (.invmixcolumns .one 0) 0xaaff88ddeebbcc992277005566334411 = true := by decide
theorem test_addroundkey : gives (.addroundkey .one 0 (.broadcast 0)) 0x00102030405060708090a0b0c0d0e0f0 = true := by
  decide
theorem test_round : gives (.round .one 0 (.broadcast 0)) 0x6378e4daf062fd71a50f36ffdee684ac = true := by decide
theorem test_finalround : gives (.finalround .one 0 (.broadcast 0)) 0x63fdae151feb2ec4ccc899fe478f3de5 = true := by decide
theorem test_invround : gives (.invround .one 0 (.broadcast 0)) 0xdde602c226743f6f00073ca86ff44fbf = true := by decide
theorem test_invfinalround : gives (.invfinalround .one 0 (.broadcast 0)) 0x52c8600182e69ff99fe49e762bf4dd69 = true := by decide
theorem test_roundkf : gives (.roundkf .one 0 (.broadcast 0)) 0x5f72641557f5bc92f7be3b291db9f91a = true := by decide
theorem test_finalroundkf : gives (.finalroundkf .one 0 (.broadcast 0)) 0x6353e08c0960e104cd70b751bacad0e7 = true := by decide
theorem test_invroundkf : gives (.invroundkf .one 0 (.broadcast 0)) 0x9822dcc3ff1d89398856cc07854d28f1 = true := by decide
theorem test_invfinalroundkf : gives (.invfinalroundkf .one 0 (.broadcast 0)) 0x526047d0727ca0fc3a6c54171f969008 = true := by decide
theorem test_roundnk : gives (.roundnk .one 0) 0x6379e6d9f467fb76ad063cf4d2eb8aa3 = true := by decide
theorem test_finalroundnk : gives (.finalroundnk .one 0) 0x63fcac161bee28c3c4c193f54b8233ea = true := by decide
theorem test_invroundnk : gives (.invroundnk .one 0) 0xdde700c122713968080e36a363f941b0 = true := by decide
theorem test_invfinalroundnk : gives (.invfinalroundnk .one 0) 0x52c9620286e399fe97ed947d27f9d366 = true := by decide

theorem test_rounds_4 : gives (.rounds .one 0 (.broadcast 0) 1 4) 0x8bfb5521f72d1507b3e28e98b86b9288 = true := by decide
theorem test_roundsfin_4 : gives (.roundsfin .one 0 (.broadcast 0) 1 4) 0x65112d5d55f59bf30850120db63befab = true := by decide
theorem test_invrounds_4 : gives (.invrounds .one 0 (.broadcast 0) 1 4) 0x473c87c524b0aaba0e799ebb6e0c992d = true := by decide
theorem test_invroundsfin_4 : gives (.invroundsfin .one 0 (.broadcast 0) 1 4) 0x8afea6eba2cc9872fe8f6340bac100ad = true := by decide
theorem test_roundskf_4 : gives (.roundskf .one 0 (.broadcast 0) 1 4) 0x93496c1ea797ab544caab3517c4f9952 = true := by decide
theorem test_roundskffin_4 : gives (.roundskffin .one 0 (.broadcast 0) 1 4) 0x72dbc6c71a2393656e7d998edaf5d403 = true := by decide
theorem test_invroundskf_4 : gives (.invroundskf .one 0 (.broadcast 0) 1 4) 0x335219b30ee29d0fbd1b541d1a54bc78 = true := by decide
theorem test_invroundskffin_4 : gives (.invroundskffin .one 0 (.broadcast 0) 1 4) 0x3a0f9d63b362dc73056a29a90c15a536 = true := by decide
theorem test_roundsnk_4 : gives (.roundsnk .one 0 4) 0xb529932bdd616d2c0be9f5b62605b3dd = true := by decide
theorem test_roundsnkfin_4 : gives (.roundsnkfin .one 0 4) 0x11517f1b1c024daedf68786e112c1e6e = true := by decide
theorem test_invroundsnk_4 : gives (.invroundsnk .one 0 4) 0x8a732402a974fefcd91610a6e139560d = true := by decide
theorem test_invroundsnkfin_4 : gives (.invroundsnkfin .one 0 4) 0xbc02b7d6d7a4258925631e21c964634d = true := by decide

/-- Section 2.7, the source's own vector, and its decryption. -/
theorem test_encrypt :
    leaves (exec (.encrypt .one 0 (.broadcast 0) .aes128)
      { full with st := full.st.set 0 (.ofHex 0x3243f6a8885a308d313198a2e0370734) })
      (fun t => decide (t.st.get 0 = .ofHex 0x3925841d02dc09fbdc118597196a0b32)) = true := by decide +kernel
theorem test_decrypt :
    leaves (exec (.decrypt .one 0 (.broadcast 1) .aes128)
      { full with st := full.st.set 0 (.ofHex 0x3925841d02dc09fbdc118597196a0b32) })
      (fun t => decide (t.st.get 0 = .ofHex 0x3243f6a8885a308d313198a2e0370734)) = true := by decide +kernel
/-- Section 2.7: V names another variant. -/
theorem test_encrypt_mismatch :
    faults (.encrypt .one 0 (.broadcast 0) .aes192) full 0x00001302 0x30081000 = true := by decide

/-- Section 2.5: the whole schedule, the error, the inverse, and RKREAD. -/
theorem test_keyexp_128 :
    leaves (exec (.keyexp 3 16) full) (fun t => decide (t.ks = ⟨slot128, inv128, slot128, slot128⟩)) = true := by decide
theorem test_keyexp_length_14 : faults (.keyexp 0 14) full 0x00000101 0 = true := by decide
/-- Section 2.5, the last round keys of the AES-192 and AES-256 schedules. -/
theorem test_expand_192 :
    (expand 12 (keyOfHex 24 0x8e73b0f7da0e6452c810f32b809079e562f8ead2522c6b7b)).key 12 =
      .ofHex 0xe98ba06f448c773c8ecc720401002202 := by decide
theorem test_expand_256 :
    (expand 14 (keyOfHex 32 0x603deb1015ca71be2b73aef0857d77811f352c073b6108d72d9810a30914dff4)).key 14 =
      .ofHex 0xfe4890d1e6188d0b046df344706c631e := by decide
theorem test_keyinv :
    leaves (exec (.keyinv 0 0) full) (fun t => decide (t.ks = ⟨inv128, inv128, slot128, ⟨0, []⟩⟩)) = true := by decide
theorem test_keyinv_empty : faults (.keyinv 2 3) full 0x00001402 0x41041800 = true := by decide
theorem test_rkread :
    leaves (exec (.rkread .kr 0 0 10) full)
      (fun t => decide (t.kr.get 0 = .ofHex 0xd014f9a8c9ee2589e13f0cc8b6630ca6) && decide (t.st = full.st)) = true := by
  decide
theorem test_rkread_index_11 : faults (.rkread .kr 0 0 11) full 0x00001202 0x42016000 = true := by decide

/-- Sections 2.4 and 2.8: per-lane keys, a misaligned lane start, and the N-way path. -/
theorem test_round_lanes :
    leaves (exec (.round .two 2 .perLane) { full with st := ⟨blockZ, blockZ, blockP, blockI⟩ })
      (fun t => decide (t.st = ⟨blockZ, blockZ, .ofHex 0x6378e4daf062fd71a50f36ffdee684ac,
        .ofHex 0x6a7b7e76683855263840f7daeb41cfa3⟩)) &&
    faults (.round .two 1 (.broadcast 0)) full 0x00001102 0x10580000 &&
    leaves (exec (.round .four 0 .perLane) { full with config := ⟨⟨false, true, false, true⟩, Config.defaultEligible⟩ })
      (fun t => decide (t.status = 0x00020000)) = true := by decide
/-- Section 2.6, boundary cases: the last valid index, the first invalid one, and the lane check first. -/
theorem test_rounds_boundaries :
    gives (.rounds .one 0 (.broadcast 0) 7 4) 0x425d8725911d68ba492b0010c3a517a0 &&
    faults (.rounds .one 0 (.broadcast 0) 8 4) full 0x00001202 0x20090000 &&
    faults (.rounds .two 1 .perLane 1 4) full 0x00001102 0x20502000 = true := by decide
/-- Section 2.8. -/
theorem test_capinit :
    leaves (exec .capinit (fresh ⟨true, true, true, true⟩)) (fun t => decide (t.caps = 0x1F) && decide (t.status = 0)) =
      true := by decide
theorem test_qhwavail :
    leaves (exec .qhwavail (fresh ⟨false, true, false, false⟩)) (fun t => decide (t.caps = 0x05) && decide (t.res = 1)) =
      true := by decide
theorem test_qlanes :
    leaves (exec .qlanes (fresh ⟨true, true, true, false⟩)) (fun t => decide (t.caps = 0x0F) && decide (t.res = 2)) =
      true := by decide
theorem test_illegal_word_latches :
    leaves (step { fresh ⟨true, true, true, true⟩ with port := [.issue 0] })
      (fun t => decide (t.status = 0x00001002) && decide (t.caps = 0x1F)) = true := by decide

/-- R114: the assembler's text, in any case. -/
theorem test_assemble_text :
    Asm.assembleText "rounds S1, KS0@2, #4" = some (.rounds .one 1 (.broadcast 0) 2 4) := by decide
/-- R110: without a suffix a command has one lane; a suffix on a non-lane command is rejected (R111). -/
theorem test_assemble_rejects_suffix : Asm.assembleText "CAPINIT.L2" = none := by decide

/-! ## The port (section 2.10) -/

theorem test_write_st_4 :
    leaves (step (withOp (.writeSt 4 blockP)))
      (fun t => decide (t.status = 0x00001102) && decide (t.fcmd = 0) && decide (t.st = full.st)) = true := by decide
theorem test_write_keyin_33 :
    leaves (step (withOp (.writeKeyin (List.replicate 33 0xFF))))
      (fun t => decide (t.status = 0x00001102) && decide (t.keyin = full.keyin)) = true := by decide
theorem test_write_keyin_1 :
    leaves (step (withOp (.writeKeyin [0xFF])))
      (fun t => decide (t.keyin[0] = 0xFF) && decide (t.keyin[1] = 0x7e)) = true := by decide
/-- R87, R157 and section 2.10: from reset, the read of a lane and a command on a lane stop. -/
theorem test_read_unwritten : stops (step { fresh noHw with port := [.readSt 0] }) = true := by decide
theorem test_subbytes_unwritten : stops (step (State.reset.withFetchWord 32 0x01000000)) = true := by decide
/-- R156, R157: a lane or key register that the command does not name is not tested. -/
theorem test_read_named_only :
    leaves (exec (.round .one 0 (.broadcast 1))
      { full with wst := ⟨true, false, false, false⟩, wkr := ⟨false, true, false, false⟩ })
      (fun t => decide (t.status = 0)) = true := by decide
theorem test_halted_refuses : refuses (step (haltedWith [.issue 0x50000000])) = true := by decide
theorem test_halted_reads_fcmd :
    leaves (step (haltedWith [.readFcmd])) (fun t => decide (t.reply = .word 0x41041800)) = true := by decide

/-! ## Witnesses: the hypotheses of each obligation that has some are met by a concrete state and operands -/

def transformsAndRounds : List Instr :=
  [.subbytes .four 0, .invsubbytes .two 2, .shiftrows .one 3, .invshiftrows .four 0, .mixcolumns .two 0,
   .invmixcolumns .one 1, .addroundkey .four 0 .perLane, .round .two 2 (.broadcast 3), .finalround .one 3 .perLane,
   .invround .four 0 (.broadcast 0)]
def otherRounds : List Instr :=
  [.invfinalround .two 0 .perLane, .roundkf .one 0 (.broadcast 1), .finalroundkf .four 0 .perLane,
   .invroundkf .two 2 .perLane, .invfinalroundkf .one 2 (.broadcast 2), .roundnk .four 0, .finalroundnk .two 2,
   .invroundnk .one 3, .invfinalroundnk .four 0, .rounds .one 0 (.broadcast 0) 7 4]
def batchedRounds : List Instr :=
  [.roundsfin .two 2 .perLane 1 10, .invrounds .four 0 .perLane 0 6, .invroundsfin .one 3 (.broadcast 1) 4 7,
   .roundskf .one 0 .perLane 0 4, .roundskffin .two 0 (.broadcast 3) 5 6, .invroundskf .one 1 .perLane 7 4,
   .invroundskffin .four 0 (.broadcast 2) 1 10, .roundsnk .one 0 14, .roundsnkfin .two 2 12, .invroundsnk .four 0 4]
def ciphersKeysSystem : List Instr :=
  [.invroundsnkfin .one 2 6, .encrypt .four 0 .perLane .aes128, .decrypt .two 2 (.broadcast 1) .any, .keyexp 3 32,
   .keyinv 0 0, .rkread .st 3 1 10, .capinit, .qhwavail, .qlanes]

/-- One command of every constructor: all 39 complete on `filled`. -/
def oneOfEach : List Instr :=
  List.flatten [transformsAndRounds, otherRounds, batchedRounds, ciphersKeysSystem]

/-- Every command completes somewhere: AccessSummary, PathOfCompleted, LaneCountEquivalence and every other statement
about a next state of `exec` has its case. -/
theorem witness_every_command_completes :
    oneOfEach.length = 39 ∧ (oneOfEach.map Instr.mnemonic).Nodup ∧
      (oneOfEach.all fun i => leaves (exec i filled) fun t => decide (causeField t.status = 0)) = true := by
  decide +kernel

/-- DecodeEncode, at the top of the fields. -/
theorem witness_DecodeEncode : (Instr.rounds .four 3 .perLane 15 14).wf = true := by decide
/-- EncodeDecode, LegalWords and DisassemblyRoundTrip. -/
theorem witness_EncodeDecode : decode 0x4205DC00 = .ok (.rkread .st 3 2 14) := by rfl
/-- OpcodeStructure: both ends of both unassigned ranges. -/
theorem witness_OpcodeStructure :
    ([0x1C000000, 0x1F000000, 0x2C000000, 0x2FFFFFFF] : List Word).all (fun cw =>
      decide ((cw.extractLsb' 24 8).toNat ∈ [0x1C, 0x1D, 0x1E, 0x1F, 0x2C, 0x2D, 0x2E, 0x2F])) = true := by decide
/-- FieldTables: the clause for a nonzero byte. -/
theorem witness_FieldTables : (0x01 : Byte) ≠ 0 ∧ (0xFF : Byte) ≠ 0 := by decide

theorem lanesWritten_full (n : LaneCount) (sl : Lane) : LanesWritten n sl full :=
  fun l _ => (by decide : ∀ l : Lane, full.wst.get l = true) l
theorem keysWritten_full (n : LaneCount) (sl : Lane) (key : KeySel) : KeysWritten n sl key full := by
  intro l _; generalize key.index l = k; revert k; decide
theorem slotsFilled_filled (n : LaneCount) (sl : Lane) (key : KeySel) : SlotsFilled n sl key filled := by
  intro l _; generalize key.index l = k; revert k; decide

/-- SubstitutionCommands, RowCommands, ColumnCommands, NoKeyRounds and NoKeyBatched: one lane, the upper pair, all four.
-/
theorem witness_lanes :
    ((3 : Lane).val % LaneCount.one.count = 0 ∧ LanesWritten .one 3 full) ∧
    ((2 : Lane).val % LaneCount.two.count = 0 ∧ LanesWritten .two 2 full) ∧
    ((0 : Lane).val % LaneCount.four.count = 0 ∧ LanesWritten .four 0 full) :=
  ⟨⟨by decide, lanesWritten_full _ _⟩, ⟨by decide, lanesWritten_full _ _⟩, ⟨by decide, lanesWritten_full _ _⟩⟩
/-- AddRoundKeyCommand: a broadcast key, and per-lane keys. -/
theorem witness_AddRoundKeyCommand :
    (2 : Lane).val % LaneCount.two.count = 0 ∧ LanesWritten .two 2 full ∧ full.wkr.get 3 = true ∧
    ∀ l : Lane, inLanes .two 2 l = true → full.wkr.get l = true :=
  ⟨by decide, lanesWritten_full _ _, by decide, by decide⟩
/-- StandardRounds and KeyFirstRounds. -/
theorem witness_keyedRounds :
    (0 : Lane).val % LaneCount.four.count = 0 ∧ LanesWritten .four 0 full ∧ KeysWritten .four 0 .perLane full ∧
    KeysWritten .four 0 (.broadcast 3) full :=
  ⟨by decide, lanesWritten_full _ _, keysWritten_full _ _ _, keysWritten_full _ _ _⟩
theorem witness_OrderLaws : 0 < 1 := by decide

/-- KeyexpCommand: each key length. -/
theorem witness_KeyexpCommand :
    ∀ p ∈ [(16, 10), (24, 12), (32, 14)],
      (p : Nat × Nat) ∈ [(16, 10), (24, 12), (32, 14)] ∧ ∀ j : Fin 32, j.val < p.1 → full.wki[j] = true := by decide
/-- KeyexpStops: lengths beside the valid ones, and one missing last byte. -/
theorem witness_KeyexpStops :
    (∀ l ∈ [0, 15, 17, 23, 25, 31, 33, 63], l ∉ [16, 24, 32]) ∧
    ∃ j : Fin 32, 32 ∈ [16, 24, 32] ∧ j.val < 32 ∧ { full with wki := full.wki.set 31 false }.wki[j] = false :=
  ⟨by decide, 31, by decide, by decide, by decide⟩
/-- KeyinvCommand: an empty slot and a filled one, with an interior key. -/
theorem witness_KeyinvCommand :
    (full.ks.get 3).rounds = 0 ∧ (full.ks.get 0).rounds ≠ 0 ∧ 1 ≤ 9 ∧ 9 < (full.ks.get 0).rounds := by decide
/-- RkreadCommand: an empty slot, the first index out of range, the last one in range. -/
theorem witness_RkreadCommand :
    (full.ks.get 3).rounds = 0 ∧ ((full.ks.get 0).rounds ≠ 0 ∧ (full.ks.get 0).rounds < 11) ∧
    ((full.ks.get 0).rounds ≠ 0 ∧ 10 ≤ (full.ks.get 0).rounds) := by decide
/-- FirstRoundKeys: each key length, and the last byte of a 24-byte key in round key 1. -/
theorem witness_FirstRoundKeys :
    (∀ p ∈ [(16, 10), (24, 12), (32, 14)],
      ((List.replicate p.1 (0 : Byte)).length, p.2) ∈ [(16, 10), (24, 12), (32, 14)]) ∧
    16 + (7 : Fin 16).val < (List.replicate 24 (0 : Byte)).length := by decide
theorem witness_InverseScheduleLaws : slot128.rounds ≠ 0 ∧ 1 ≤ 1 ∧ 1 < slot128.rounds := by decide

/-- StandardBatched and KeyFirstBatched: the last key index is ROUNDS itself. -/
theorem witness_keyedBatched :
    (0 : Lane).val % LaneCount.four.count = 0 ∧ SlotsFilled .four 0 .perLane filled ∧
    KeysInRange .four 0 .perLane 7 4 filled ∧ LanesWritten .four 0 filled :=
  ⟨by decide, slotsFilled_filled _ _ _, by unfold KeysInRange; decide, by unfold LanesWritten; decide⟩
/-- BatchedChecks: an empty slot in the last lane, the first index out of range, an unwritten lane. -/
theorem witness_BatchedChecks :
    Ord.std ≠ .nk ∧ (2 : Lane).val % LaneCount.two.count = 0 ∧
    ¬ SlotsFilled .two 2 .perLane full ∧
    (SlotsFilled .two 2 .perLane filled ∧ ¬ KeysInRange .two 2 .perLane 8 4 filled) ∧
    SlotsFilled .two 2 .perLane { filled with wst := ⟨true, true, true, false⟩ } ∧
    KeysInRange .two 2 .perLane 7 4 { filled with wst := ⟨true, true, true, false⟩ } ∧
    ¬ LanesWritten .two 2 { filled with wst := ⟨true, true, true, false⟩ } := by
  unfold SlotsFilled KeysInRange LanesWritten; decide
/-- BatchedEqualsSequential: a keyed and a no-key command complete. -/
theorem witness_BatchedEqualsSequential :
    leaves (exec (roundsInstr .std false true .two 2 .perLane 1 10) filled) (fun t => decide (causeField t.status = 0)) &&
    leaves (exec (roundsInstr .nk true true .one 3 .perLane 0 4) full) (fun t => decide (causeField t.status = 0)) =
      true := by decide +kernel

/-- EncryptCommand and DecryptCommand: V names the variant, and V is any. -/
theorem witness_ciphers :
    (0 : Lane).val % LaneCount.four.count = 0 ∧ SlotsFilled .four 0 .perLane filled ∧
    VariantFits .four 0 .perLane .aes128 filled ∧ VariantFits .four 0 .perLane .any filled ∧
    LanesWritten .four 0 filled := by
  refine ⟨by decide, slotsFilled_filled _ _ _, ?_, ?_, by unfold LanesWritten; decide⟩
  · intro l _ nr h; cases h; revert l; decide
  · intro l _ nr h; cases h
/-- CipherChecks: an empty slot, another variant, an unwritten lane. -/
theorem witness_CipherChecks :
    (2 : Lane).val % LaneCount.two.count = 0 ∧
    ¬ SlotsFilled .two 2 .perLane full ∧
    (SlotsFilled .two 2 .perLane filled ∧ ¬ VariantFits .two 2 .perLane .aes192 filled) ∧
    SlotsFilled .two 2 .perLane { filled with wst := ⟨true, true, true, false⟩ } ∧
    VariantFits .two 2 .perLane .aes128 { filled with wst := ⟨true, true, true, false⟩ } ∧
    ¬ LanesWritten .two 2 { filled with wst := ⟨true, true, true, false⟩ } := by
  refine ⟨by decide, by unfold SlotsFilled; decide, ⟨slotsFilled_filled _ _ _, fun h => ?_⟩,
    by unfold SlotsFilled; decide, ?_, by unfold LanesWritten; decide⟩
  · exact absurd (h 2 (by decide) 12 rfl) (by decide)
  · intro l _ nr h; cases h; revert l; decide

/-- `full` with these schedules in slots 0 and 1. -/
def withSchedules (a b : Slot) : State := { full with ks := ⟨a, b, ⟨0, []⟩, ⟨0, []⟩⟩ }
theorem withSchedules_slot0 (a b : Slot) : (withSchedules a b).ks.get 0 = a := rfl
theorem withSchedules_slot1 (a b : Slot) : (withSchedules a b).ks.get 1 = b := rfl
theorem lanesWritten_withSchedules (a b : Slot) (n : LaneCount) (sl : Lane) : LanesWritten n sl (withSchedules a b) :=
  fun l _ => (by decide : ∀ l : Lane, full.wst.get l = true) l
/-- RoundTrip: a 24-byte key, V any and V its variant, four lanes. -/
theorem witness_RoundTrip :
    ((List.replicate 24 (0 : Byte)).length, 12) ∈ [(16, 10), (24, 12), (32, 14)] ∧
    (Variant.any.expected = none ∨ Variant.any.expected = some 12) ∧
    (Variant.aes192.expected = none ∨ Variant.aes192.expected = some 12) ∧
    ∃ s : State, s.ks.get 0 = expand 12 (List.replicate 24 0) ∧ s.ks.get 1 = invSchedule (s.ks.get 0) ∧
      (0 : Lane).val % LaneCount.four.count = 0 ∧ LanesWritten .four 0 s :=
  ⟨by decide, by decide, by decide, withSchedules (expand 12 (List.replicate 24 0)) (invSchedule (expand 12 (List.replicate 24 0))),
    withSchedules_slot0 _ _, by rw [withSchedules_slot0, withSchedules_slot1], by decide, lanesWritten_withSchedules _ _ _ _⟩
/-- CipherAsComposition: both ciphers complete. -/
theorem witness_CipherAsComposition :
    leaves (exec (.encrypt .four 0 (.broadcast 0) .any) full) (fun t => decide (causeField t.status = 0)) &&
    leaves (exec (.decrypt .four 0 (.broadcast 0) .any) full) (fun t => decide (causeField t.status = 0)) = true := by
  decide +kernel

/-- PathOfCompleted: each of its clauses, by the PATH it ends in. -/
theorem witness_PathOfCompleted :
    leaves (exec (.round .two 2 .perLane) { full with config := ⟨⟨true, true, true, false⟩, Config.defaultEligible⟩ })
      (fun t => decide (pathField t.status = 2)) &&
    leaves (exec (.round .four 0 .perLane) { full with config := ⟨⟨true, true, true, false⟩, Config.defaultEligible⟩ })
      (fun t => decide (pathField t.status = 1)) &&
    leaves (exec (.round .four 0 .perLane) { full with config := ⟨⟨false, true, true, false⟩, Config.defaultEligible⟩ })
      (fun t => decide (pathField t.status = 0)) &&
    leaves (exec (.roundkf .four 0 .perLane) { full with config := ⟨⟨true, true, true, true⟩, Config.defaultEligible⟩ })
      (fun t => decide (pathField t.status = 0)) &&
    leaves (exec (.round .two 1 .perLane) { full with config := ⟨⟨true, true, true, true⟩, Config.defaultEligible⟩ })
      (fun t => decide (causeField t.status ≠ 0) && decide (pathField t.status = 0)) = true := by decide
/-- DispatchTable: the state after RESET of every instance with the default HW_ELIGIBLE. -/
theorem witness_DispatchTable (p : Probe) :
    (fresh p).caps.getLsbD 0 = false ∧ (fresh p).config = ⟨p, Config.defaultEligible⟩ :=
  ⟨show (0 : Word).getLsbD 0 = false by decide, rfl⟩
/-- PathIndependence: another probe, another HW_ELIGIBLE, CAPS not yet latched. -/
theorem witness_PathIndependence :
    SameData full { full with config := ⟨⟨true, true, true, true⟩, []⟩, caps := 0x1F } ∧
    full.res = { full with config := ⟨⟨true, true, true, true⟩, []⟩, caps := 0x1F }.res :=
  ⟨⟨rfl, rfl, rfl, rfl, rfl, rfl, rfl⟩, rfl⟩
/-- CapsTriggers and PortOrder: each host-port operation takes a step. -/
theorem witness_CapsTriggers :
    ([.writeSt 3 blockP, .readSt 3, .writeKr 3 blockP, .writeKeyin [0xFF], .readKr 3, .readCaps, .readStatus, .readFcmd,
      .readRes, .issue 0x50000000, .issue 0, .reset] : List HostOp).all
      (fun op => leaves (step (withOp op)) fun _ => true) = true := by decide

/-- LaneStart: a pair from an odd lane, four lanes from lane 2. -/
theorem witness_LaneStart :
    ((Instr.round .two 3 .perLane).laneCount? = some .two ∧ (Instr.round .two 3 .perLane).start? = some 3 ∧
      (3 : Lane).val % LaneCount.two.count ≠ 0) ∧
    ((Instr.encrypt .four 2 .perLane .any).laneCount? = some .four ∧
      (Instr.encrypt .four 2 .perLane .any).start? = some 2 ∧ (2 : Lane).val % LaneCount.four.count ≠ 0) := by decide
/-- UnwrittenOperands: an unwritten lane, and an unwritten key register. -/
theorem witness_UnwrittenOperands :
    ((Instr.roundsnk .two 2 4).laneCount? = some .two ∧ (Instr.roundsnk .two 2 4).start? = some 2 ∧
      (2 : Lane).val % LaneCount.two.count = 0 ∧ (Instr.roundsnk .two 2 4).mnemonic.cls ∈ [Class.t, .tk, .bn] ∧
      ¬ LanesWritten .two 2 { full with wst := ⟨true, true, true, false⟩ }) ∧
    ((Instr.round .one 0 (.broadcast 1)).laneCount? = some .one ∧ (Instr.round .one 0 (.broadcast 1)).start? = some 0 ∧
      (Instr.round .one 0 (.broadcast 1)).mnemonic.cls ∈ [Class.t, .tk, .bn] ∧
      keyOf (.round .one 0 (.broadcast 1)) = some (.broadcast 1) ∧
      ¬ KeysWritten .one 0 (.broadcast 1) { full with wkr := ⟨true, false, true, true⟩ }) := by
  unfold LanesWritten KeysWritten; decide
/-- `full` with other lanes, key registers and round keys. -/
def otherData : State := { full with
  st := ⟨blockZ, blockZ, blockZ, blockZ⟩
  kr := ⟨blockF, blockF, blockF, blockF⟩
  ks := ⟨inv128, slot128, inv128, ⟨0, []⟩⟩ }
/-- NoDataFaults: other data under the same tags and round counts. -/
theorem witness_NoDataFaults :
    full.wst = otherData.wst ∧ full.wkr = otherData.wkr ∧ full.wki = otherData.wki ∧
      ∀ k : Lane, (full.ks.get k).rounds = (otherData.ks.get k).rounds := by decide
/-- LaneIndependence: lane 2 of a four-lane round, with every other lane and key register changed. -/
theorem witness_LaneIndependence :
    let t : State := { full with st := ⟨blockF, blockF, blockZ, blockI⟩, kr := ⟨blockZ, blockZ, blockI, blockZ⟩ }
    let i : Instr := .round .four 0 .perLane
    i.laneCount? = some .four ∧ i.start? = some 0 ∧ inLanes .four 0 2 = true ∧ full.st.get 2 = t.st.get 2 ∧
      keyOf i = some .perLane ∧ full.kr.get 2 = t.kr.get 2 ∧ full.ks.get 2 = t.ks.get 2 ∧
      (leaves (exec i full) fun a => decide (causeField a.status = 0)) = true ∧
      (leaves (exec i t) fun b => decide (causeField b.status = 0)) = true := by decide
/-- LaneCountEquivalence: a command of four lanes completes, and an order of its lanes. -/
theorem witness_LaneCountEquivalence :
    (leaves (exec (.round .four 0 .perLane) full) fun t => decide (causeField t.status = 0)) = true ∧
    [3, 1, 0, 2].Perm (lanes .four 0) := by decide

/-- StepRunsDecoded. -/
theorem witness_StepRunsDecoded :
    (withOp (.issue 0x42014C00)).status.getLsbD 1 = false ∧
    (withOp (.issue 0x42014C00)).port = .issue 0x42014C00 :: [] ∧ decode 0x42014C00 = .ok (.rkread .st 1 0 10) :=
  ⟨by decide, rfl, rfl⟩
/-- IllegalWord: the word of zeros, and a count code above 5. -/
theorem witness_IllegalWord :
    (withOp (.issue 0)).status.getLsbD 1 = false ∧ (∃ why, decode 0 = .error why) ∧
    ∃ why, decode 0x20001800 = .error why :=
  ⟨by decide, ⟨_, rfl⟩, ⟨_, rfl⟩⟩
/-- PortWrites and PortReads: lane 3, 32 bytes, a written and an unwritten lane. -/
theorem witness_PortWritesReads :
    full.status.getLsbD 1 = false ∧ (withOp (.writeSt 3 blockP)).port = .writeSt (3 : Lane).val blockP :: [] ∧
    (withOp (.writeKr 3 blockP)).port = .writeKr (3 : Lane).val blockP :: [] ∧
    (List.replicate 32 (0xFF : Byte)).length ≤ 32 ∧
    (withOp (.readSt 3)).port = .readSt (3 : Lane).val :: [] ∧ full.wst.get 3 = true ∧ full.wkr.get 3 = true ∧
    (fresh noHw).wst.get 3 = false ∧ (fresh noHw).wkr.get 3 = false ∧ (fresh noHw).status.getLsbD 1 = false := by
  decide
/-- PortBounds: the first lane index and the first length out of range. -/
theorem witness_PortBounds :
    (withOp (.readKr 4)).status.getLsbD 1 = false ∧ 3 < 4 ∧ 32 < (List.replicate 33 (0 : Byte)).length := by decide
/-- ResetOperation, from HALTED. -/
theorem witness_ResetOperation : (haltedWith [.reset]).port = .reset :: [] := rfl
/-- HaltedOperations: a refused operation and the two accepted reads. -/
theorem witness_HaltedOperations :
    (haltedWith [.readRes]).status.getLsbD 1 = true ∧ (haltedWith [.readRes]).port = .readRes :: [] ∧
    HostOp.readRes ≠ .reset ∧ HostOp.readRes ≠ .readStatus ∧ HostOp.readRes ≠ .readFcmd ∧
    (haltedWith [.readStatus]).port = .readStatus :: [] ∧ (haltedWith [.readFcmd]).port = .readFcmd :: [] := by decide
/-- HaltedPersists: a run of one step from a HALTED state with no RESET pending. -/
theorem witness_HaltedPersists :
    (haltedWith [.readStatus]).status.getLsbD 1 = true ∧ HostOp.reset ∉ (haltedWith [.readStatus]).port ∧
    ∃ t, Reaches (haltedWith [.readStatus]) t ∧ t ≠ haltedWith [.readStatus] :=
  ⟨by decide, by decide, _, .tail (.refl _) rfl, by decide⟩
/-- SharedSchedule: two hosts, an order that takes the second first, and a slot neither writes. -/
theorem witness_SharedSchedule :
    Interleaves [[.readRes], [.readCaps]] [.readCaps, .readRes] ∧
    (∀ h ∈ [[HostOp.readRes], [.readCaps]], ∀ op ∈ h, ¬ writesSlot 0 op) ∧
    ∃ t, Reaches { full with port := [.readCaps, .readRes] } t ∧ t.port = [.readRes] := by
  refine ⟨.take (before := [[.readRes]]) (after := []) (.take (before := []) (after := [[]]) (.done (by decide))), ?_,
    _, .tail (.refl _) rfl, by decide⟩
  intro h hh op hop
  have : op = .readRes ∨ op = .readCaps := by
    simp only [List.mem_cons, List.not_mem_nil, or_false] at hh
    rcases hh with rfl | rfl <;> simp_all
  rcases this with rfl | rfl <;> simp [writesSlot]
/-- PortOrder: an idle engine; operations accepted by an engine that is not HALTED, and by one that is. -/
theorem witness_PortOrder :
    full.port = [] ∧ (withOp .readRes).status.getLsbD 1 = false ∧
    (haltedWith [.readFcmd]).status.getLsbD 1 = true ∧ HostOp.readFcmd ∈ [HostOp.reset, .readStatus, .readFcmd] := by
  decide
/-- StepKeepsInv: a state with three filled slots has the invariant and steps. -/
theorem witness_StepKeepsInv :
    (withOp (.issue 0x41060000)).Inv ∧ (leaves (step (withOp (.issue 0x41060000))) fun _ => true) = true :=
  ⟨⟨by unfold Slot.ok; decide, .inl rfl, .inl ⟨.sw, rfl⟩, fun _ => rfl, by decide⟩, by decide⟩
/-- `full` with lane 0 unwritten and holding the block, and the operation pending. -/
def lane0Unwritten (b : Block) (op : HostOp) : State :=
  { full with st := full.st.set 0 b, wst := ⟨false, true, true, true⟩, port := [op] }
/-- UnwrittenUnobservable: two states that differ in an unwritten lane; a step that goes on, and one that stops. -/
theorem witness_UnwrittenUnobservable (op : HostOp) :
    SameWritten (lane0Unwritten blockP op) (lane0Unwritten blockF op) where
  wst := rfl
  st := (by unfold agreeWritten; decide :
    agreeWritten ⟨false, true, true, true⟩ (full.st.set 0 blockP) (full.st.set 0 blockF))
  wkr := rfl
  kr := fun _ _ => rfl
  wki := rfl
  keyin := fun _ _ => rfl
  ks := rfl
  caps := rfl
  status := rfl
  fcmd := rfl
  res := rfl
  config := rfl
  port := rfl
  reply := rfl
  resets := rfl
theorem witness_UnwrittenUnobservable_outcomes :
    (lane0Unwritten blockP (.readSt 0)).st ≠ (lane0Unwritten blockF (.readSt 0)).st ∧
    (leaves (step (lane0Unwritten blockP (.readSt 1))) fun _ => true) = true ∧
    stops (step (lane0Unwritten blockP (.readSt 0))) = true := by decide


end Sys2Proof.Machine.Tests
end

section
/-!
The statements about the state: the layouts of CAPS and STATUS, the machine's invariant at RESET and over every step,
what each command may write, and that storage under a cleared written tag shows in no step.
-/

namespace Sys2Proof.Machine

/-! ## The registers CAPS and STATUS (R37, R38) -/

theorem toNat_capsWord (p : Probe) :
    (capsWord p).toNat = 1 + 2 * p.hw1.toNat + 4 * p.hwn.toNat + 8 * p.vw2.toNat + 16 * p.vw4.toNat := by
  obtain ⟨hw1, hwn, vw2, vw4⟩ := p
  revert hw1 hwn vw2 vw4
  decide

/-- Settles O8. -/
theorem registerLayouts : Obligations.RegisterLayouts := by
  refine ⟨toNat_capsWord, fun err fatal cause path => ?_⟩
  rw [toNat_statusWord]
  omega

/-! ## The effects of the commands, said once -/

/-- Every form the commit of a command can have, by the state element it writes (R151, R158). -/
inductive Effect (t : State) : Instr → State → Prop where
  | lanes {i : Instr} {n : LaneCount} {sl : Lane} : i.laneCount? = some n → i.start? = some sl →
      Effect t i (t.commitLanes n sl (resultOf i t))
  | keyexp (k : Lane) (l : Nat) :
      Effect t (.keyexp k l) (t.writeSlot k (expand ((roundsOfLength l).getD 0) (keyBytes l t)))
  | keyinv (k ss : Lane) : Effect t (.keyinv k ss) (t.writeSlot k (invSchedule (t.ks.get ss)))
  | rkreadKr (dl k : Lane) (ri : Nat) : Effect t (.rkread .kr dl k ri) (t.writeKr dl ((t.ks.get k).key ri))
  | rkreadSt (dl k : Lane) (ri : Nat) : Effect t (.rkread .st dl k ri) (t.writeSt dl ((t.ks.get k).key ri))
  | capinit : Effect t .capinit t
  | qhwavail : Effect t .qhwavail (t.setRes (hwAvailable t.caps))
  | qlanes : Effect t .qlanes (t.setRes (preferredLanes t.caps))

theorem effect_effectOf (i : Instr) (t : State) : Effect t i (effectOf i t) := by
  cases i with
  | keyexp k l => exact .keyexp k l
  | keyinv k ss => exact .keyinv k ss
  | rkread dst dl k ri =>
    cases dst with
    | kr => exact .rkreadKr dl k ri
    | st => exact .rkreadSt dl k ri
  | capinit => exact .capinit
  | qhwavail => exact .qhwavail
  | qlanes => exact .qlanes
  | _ => exact .lanes rfl rfl

/-! ## The invariant -/

/-- Settles O58: after RESET every slot is empty and every control register is 0. -/
theorem resetInv : Obligations.ResetInv where
  slots := by unfold Slot.ok; decide
  caps := .inl rfl
  status := .inl ⟨.sw, rfl⟩
  fcmd := fun _ => rfl
  res := by decide

theorem roundsOfLength_mem {l nr : Nat} (h : roundsOfLength l = some nr) : nr ∈ [10, 12, 14] := by
  simp only [roundsOfLength] at h
  split_ifs at h <;> cases h <;> decide

/-- R273: a schedule of nr rounds has nr + 1 keys. -/
theorem expand_ok {nr : Nat} (h : nr ∈ [10, 12, 14]) (key : List Byte) : (expand nr key).ok := by
  have hne : nr ≠ 0 := by rintro rfl; revert h; decide
  exact ⟨List.mem_cons_of_mem _ h, by simp [expand, roundKeysOf, hne]⟩

/-- R276: the inverse schedule of a filled slot is a filled slot of the same round count. -/
theorem invSchedule_ok {q : Slot} (h : q.ok) (hne : q.rounds ≠ 0) : (invSchedule q).ok :=
  ⟨h.1, by simp [invSchedule, hne]⟩

theorem hwAvailable_mem (caps : Word) : hwAvailable caps ∈ [0, 1, 2, 4] := by
  unfold hwAvailable; split <;> decide

theorem preferredLanes_mem (caps : Word) : preferredLanes caps ∈ [0, 1, 2, 4] := by
  unfold preferredLanes; split_ifs <;> decide

theorem statusOk_raise (c : Cause) (cw : Word) (s : State) : statusOk (raise c cw s).status := by
  rw [raise_status]
  cases c with
  | invalidKeyLength => exact .inr (.inl rfl)
  | _ => exact .inr (.inr ⟨_, rfl, rfl⟩)

namespace State.Inv

variable {s t : State} (h : s.Inv)
include h

/-- The invariant speaks of the slots, the control registers and the configuration alone. -/
theorem of_eq (hks : t.ks = s.ks := by rfl) (hcaps : t.caps = s.caps := by rfl)
    (hconfig : t.config = s.config := by rfl) (hstatus : t.status = s.status := by rfl)
    (hfcmd : t.fcmd = s.fcmd := by rfl) (hres : t.res = s.res := by rfl) : t.Inv where
  slots := hks ▸ h.slots
  caps := by simpa only [capsOk, hcaps, hconfig] using h.caps
  status := hstatus ▸ h.status
  fcmd := by simpa only [hstatus, hfcmd] using h.fcmd
  res := hres ▸ h.res

theorem latch : (latch s).Inv where
  slots := by simpa using h.slots
  caps := by
    simp only [capsOk, latch_caps, latch_config, latchedCaps]
    split
    · exact h.caps
    · exact .inr rfl
  status := by simpa using h.status
  fcmd := by simpa using h.fcmd
  res := by simpa using h.res

theorem writeSlot (k : Lane) {q : Slot} (hq : q.ok) : (s.writeSlot k q).Inv where
  slots := by
    intro j
    rw [writeSlot_ks, Quad.get_set]
    split
    · exact hq
    · exact h.slots j
  caps := h.caps
  status := h.status
  fcmd := h.fcmd
  res := h.res

theorem setRes {v : Word} (hv : v ∈ [0, 1, 2, 4]) : (s.setRes v).Inv :=
  ⟨h.slots, h.caps, h.status, h.fcmd, hv⟩

/-- An Error leaves FCMD as it was (R39, R423). -/
theorem raise (hf : s.fcmd = 0) (c : Cause) (cw : Word) : (raise c cw s).Inv where
  slots := by simpa using h.slots
  caps := by simpa [capsOk] using h.caps
  status := statusOk_raise c cw s
  fcmd := by
    rw [raise_status, raise_fcmd, fatalBit_statusWord]
    intro hc
    rwa [hc]
  res := by simpa using h.res

theorem complete (hf : s.fcmd = 0) (p : Path) : (complete p s).Inv :=
  ⟨h.slots, h.caps, .inl ⟨p, rfl⟩, fun _ => hf, h.res⟩

/-- The checks of KEYEXP and KEYINV are what keeps the slots well-formed (R275, R282). -/
theorem effectOf {i : Instr} (hc : checkOf i s = none) : (effectOf i s).Inv := by
  have heff := effect_effectOf i s
  generalize Machine.effectOf i s = u at heff
  cases heff with
  | lanes | rkreadKr | rkreadSt | capinit => exact h.of_eq
  | keyexp k l =>
    obtain ⟨nr, hl⟩ : ∃ nr, roundsOfLength l = some nr := by
      simpa [checkOf, Option.isSome_iff_exists] using hc
    simp only [hl, Option.getD_some]
    exact h.writeSlot k (expand_ok (roundsOfLength_mem hl) _)
  | keyinv k ss =>
    have hne : (s.ks.get ss).rounds ≠ 0 := by simpa [checkOf] using hc
    exact h.writeSlot k (invSchedule_ok (h.slots ss) hne)
  | qhwavail => exact h.setRes (hwAvailable_mem _)
  | qlanes => exact h.setRes (preferredLanes_mem _)

theorem exec (hf : s.fcmd = 0) {i : Instr} (he : exec i s = .next t) : t.Inv := by
  have hl : (Machine.latch s).fcmd = 0 := by simpa using hf
  obtain ⟨c, -, hn⟩ | ⟨hc, -, hn⟩ | ⟨-, -, hn⟩ := exec_cases i s <;> rw [hn] at he <;> cases he
  · exact h.latch.raise hl c (encode i)
  · obtain ⟨-, hfcmd, -⟩ := effectOf_keeps i (Machine.latch s)
    exact (h.latch.effectOf hc).complete (hfcmd.trans hl) _

/-- In HALTED, where FCMD holds a command word, only RESET of the accepted operations clears STATUS.FATAL (R427). -/
theorem performed {op : HostOp} (ha : halted s = true → acceptedInHalted op = true) (hp : Performed s op t) :
    t.Inv := by
  have hf : acceptedInHalted op = false → s.fcmd = 0 := fun hop =>
    h.fcmd (by simpa [halted, hop] using ha)
  cases hp with
  | writeSt | writeKr | writeKeyin | readSt | readKr | readStatus | readFcmd | readRes => exact h.of_eq
  | readCaps => exact h.latch.of_eq
  | hostFatal hop => exact h.raise (hf hop) .laneOutOfRange 0
  | illegal => exact h.latch.raise (by simpa using hf rfl) .illegalCommand _
  | command _ he => exact h.exec (hf rfl) he
  | reset => exact ⟨resetInv.slots, .inl rfl, resetInv.status, resetInv.fcmd, resetInv.res⟩

end State.Inv

/-- Settles O59, by the operation the step takes. -/
theorem stepKeepsInv : Obligations.StepKeepsInv := by
  intro s t h hstep
  obtain ⟨-, rfl⟩ | ⟨op, rest, -, ha, hp⟩ := step_performed hstep
  · exact h
  · have htaken : (taken s rest).Inv := h.of_eq
    exact htaken.performed ha hp

/-! ## What each command may write (R47) -/

section Effect

variable {i : Instr} {t u : State} (h : Effect t i u)
include h

/-- RES is written by the queries alone (R40). -/
theorem Effect.res_eq (hi : i ∉ [Instr.qhwavail, .qlanes]) : u.res = t.res := by
  cases h with
  | qhwavail | qlanes => simp at hi
  | _ => rfl

/-- A key register is written by RKREAD to it alone (R31). -/
theorem Effect.kr_get {l : Lane} (hl : ∀ k ri, i ≠ .rkread .kr l k ri) :
    u.kr.get l = t.kr.get l ∧ u.wkr.get l = t.wkr.get l := by
  cases h with
  | rkreadKr dl k ri =>
    have hne : l ≠ dl := by rintro rfl; exact hl k ri rfl
    simp [Quad.get_set_other _ hne]
  | _ => exact ⟨rfl, rfl⟩

/-- A slot is written by KEYEXP and KEYINV to it alone (R281). -/
theorem Effect.ks_get {k : Lane} (hexp : ∀ l, i ≠ .keyexp k l) (hinv : ∀ ss, i ≠ .keyinv k ss) :
    u.ks.get k = t.ks.get k := by
  cases h with
  | keyexp dst l =>
    have hne : k ≠ dst := by rintro rfl; exact hexp l rfl
    simp [Quad.get_set_other _ hne]
  | keyinv dst ss =>
    have hne : k ≠ dst := by rintro rfl; exact hinv ss rfl
    simp [Quad.get_set_other _ hne]
  | _ => rfl

/-- A state lane is written by a datapath command of that lane and by RKREAD to it alone (R151). -/
theorem Effect.st_get {l : Lane} (hrk : ∀ k ri, i ≠ .rkread .st l k ri)
    (hout : ∀ n sl, i.laneCount? = some n → i.start? = some sl → inLanes n sl l = false) :
    u.st.get l = t.st.get l ∧ u.wst.get l = t.wst.get l := by
  cases h with
  | lanes hn hsl => simp [hout _ _ hn hsl]
  | rkreadSt dl k ri =>
    have hne : l ≠ dl := by rintro rfl; exact hrk k ri rfl
    simp [Quad.get_set_other _ hne]
  | _ => exact ⟨rfl, rfl⟩

end Effect

/-- Settles O44: a command that raises a cause writes control registers only, one that completes its effect. -/
theorem accessSummary : Obligations.AccessSummary := by
  intro i s t he
  obtain ⟨c, -, hn⟩ | ⟨-, -, hn⟩ | ⟨-, -, hn⟩ := exec_cases i s <;> rw [hn] at he <;> cases he
  · refine ⟨?_, ?_, ?_, ?_, ?_, ?_, ?_, ?_, ?_, ?_, ?_⟩ <;> simp +contextual
  · obtain ⟨-, -, hkeyin, hwki, -⟩ := effectOf_keeps i (latch s)
    have hdone := completed_complete i s
    have heff := effect_effectOf i (latch s)
    refine ⟨by simp [hkeyin], by simp [hwki], hdone.config, hdone.port, hdone.reply, hdone.resets,
      fun _ => hdone.fcmd, fun hi => ?_, fun l hl => ?_, fun k hexp hinv => ?_, fun l hrk hout => ?_⟩
    · simpa using heff.res_eq hi
    · simpa using heff.kr_get hl
    · simpa using heff.ks_get hexp hinv
    · simpa using heff.st_get hrk hout

/-! ## What a command reads (R153, R154, R156) -/

/-- A class TK command that passes its written-operand test reads written key registers only. -/
theorem readyOf_keys {i : Instr} {n : LaneCount} {sl : Lane} {key : KeySel} {s : State} (hn : i.laneCount? = some n)
    (hsl : i.start? = some sl) (hcls : i.mnemonic.cls = .tk) (hkey : keyOf i = some key)
    (h : readyOf i (latch s) = true) : KeysWritten n sl key s := by
  by_contra hk
  have hreads : ReadsUnwritten i s := .inl ⟨n, sl, hn, hsl, .inr ⟨hcls, key, hkey, hk⟩⟩
  simp [(readyOf_eq_false i s).2 hreads] at h

/-- The result of a lane depends on the lane, on its key register for a class TK command, and on its slot. -/
theorem resultOf_congr {i : Instr} {s t : State} {l : Lane} (hst : s.st.get l = t.st.get l)
    (hkr : ∀ key, keyOf i = some key → i.mnemonic.cls = .tk → s.kr.get (key.index l) = t.kr.get (key.index l))
    (hks : ∀ key, keyOf i = some key → s.ks.get (key.index l) = t.ks.get (key.index l)) :
    resultOf i s l = resultOf i t l := by
  cases i <;> simp_all [resultOf, keyReg, keySlot, keyOf, Instr.mnemonic, Mnemonic.cls]

theorem pathOf_congr (i : Instr) {s t : State} (hcaps : s.caps = t.caps) (hconfig : s.config = t.config) :
    pathOf i s = pathOf i t := by
  simp only [pathOf, hcaps, hconfig]

/-- The key bytes of KEYEXP depend on the first `l` bytes of KEYIN (R280). -/
theorem keyBytes_congr {l : Nat} {s t : State} (h : ∀ j : Fin 32, j.val < l → s.keyin[j] = t.keyin[j]) :
    keyBytes l s = keyBytes l t := by
  refine List.ext_getElem (by simp [keyBytes]) fun j hs ht => ?_
  simp only [keyBytes, List.length_take, Vector.length_toList, Nat.lt_min] at hs
  simpa [keyBytes] using h ⟨j, hs.2⟩ hs.1

/-! ## Files that agree where they are written -/

/-- A write of the same value keeps the agreement, whatever stood there. -/
theorem agreeWritten.set {α : Type} {tags : Quad Bool} {a b : Quad α} (h : agreeWritten tags a b) (i : Lane)
    (v : α) : agreeWritten (tags.set i true) (a.set i v) (b.set i v) := by
  intro j hj
  simp only [Quad.get_set] at hj ⊢
  split
  · rfl
  · next hne => exact h j (by simpa [hne] using hj)

/-! ## The named updates keep the agreement -/

namespace SameWritten

variable {s t : State} (h : SameWritten s t)
include h

/-- Related next states are related outcomes. -/
theorem next : outcomesRelated SameWritten (.next s) (.next t) := h

theorem taken (rest : List HostOp) : SameWritten (taken s rest) (taken t rest) :=
  { h with port := rfl, reply := rfl }

theorem setReply (r : Reply) : SameWritten (s.setReply r) (t.setReply r) := { h with reply := rfl }

theorem setRes (v : Word) : SameWritten (s.setRes v) (t.setRes v) := { h with res := rfl }

theorem setStatus (v : Word) : SameWritten (s.setStatus v) (t.setStatus v) := { h with status := rfl }

theorem setFcmd (v : Word) : SameWritten (s.setFcmd v) (t.setFcmd v) := { h with fcmd := rfl }

theorem writeSlot (k : Lane) (q : Slot) : SameWritten (s.writeSlot k q) (t.writeSlot k q) :=
  { h with ks := by simp [h.ks] }

theorem writeSt (l : Lane) (v : Block) : SameWritten (s.writeSt l v) (t.writeSt l v) :=
  { h with wst := by simp [h.wst], st := h.st.set l v }

theorem writeKr (l : Lane) (v : Block) : SameWritten (s.writeKr l v) (t.writeKr l v) :=
  { h with wkr := by simp [h.wkr], kr := h.kr.set l v }

theorem writeKeyin (b : List Byte) : SameWritten (s.writeKeyin b) (t.writeKeyin b) :=
  { h with
    wki := by simp [h.wki]
    keyin := by
      intro j hj
      by_cases hb : j.val < b.length
      · simp [hb]
      · have hw : s.wki[j] = true := by simpa [hb] using hj
        simpa [hb] using h.keyin j hw }

theorem commitLanes {n : LaneCount} {sl : Lane} {f g : Lane → Block}
    (hfg : ∀ l, inLanes n sl l = true → f l = g l) : SameWritten (s.commitLanes n sl f) (t.commitLanes n sl g) :=
  { h with
    wst := by simp [h.wst]
    st := by
      intro l hl
      simp only [State.commitLanes_wst, State.commitLanes_st, Quad.get_ofFn, Bool.or_eq_true] at hl ⊢
      split
      · next hin => exact hfg l hin
      · next hin => exact h.st l (hl.resolve_left hin) }

theorem latch : SameWritten (latch s) (latch t) := by
  rw [latch_eq, latch_eq]
  exact { h with caps := by simp [latchedCaps, h.caps, h.config] }

theorem raise (c : Cause) (cw : Word) : SameWritten (raise c cw s) (raise c cw t) := by
  unfold Machine.raise
  split
  · exact (h.setStatus _).setFcmd cw
  · exact h.setStatus _

theorem complete (p : Path) : SameWritten (complete p s) (complete p t) := h.setStatus _

/-- After RESET no lane or byte is written, so the free values it leaves (R471) may differ. -/
theorem resetEngine : SameWritten (resetEngine s) (resetEngine t) where
  wst := rfl
  st l hl := by fin_cases l <;> cases hl
  wkr := rfl
  kr l hl := by fin_cases l <;> cases hl
  wki := rfl
  keyin j hj := by simp [Machine.resetEngine, State.reset] at hj
  ks := rfl
  caps := rfl
  status := rfl
  fcmd := rfl
  res := rfl
  config := h.config
  port := h.port
  reply := rfl
  resets := by simp [Machine.resetEngine, h.resets]

/-! ## Commands -/

theorem checkOf_eq (i : Instr) : checkOf i s = checkOf i t := checkOf_congr i fun k => by rw [h.ks]

theorem readyOf_eq (i : Instr) : readyOf i s = readyOf i t := readyOf_congr i h.wst h.wkr h.wki

/-- A datapath command that passes its test reads nothing the two states differ in. -/
theorem resultOf_eq {i : Instr} {n : LaneCount} {sl l : Lane} (hn : i.laneCount? = some n) (hsl : i.start? = some sl)
    (hr : readyOf i (Machine.latch s) = true) (hl : inLanes n sl l = true) :
    resultOf i (Machine.latch s) l = resultOf i (Machine.latch t) l := by
  refine resultOf_congr ?_ (fun key hkey hcls => ?_) (fun key _ => ?_)
  · exact h.latch.st l (readyOf_lanes hn hsl hr l hl)
  · have hw := readyOf_keys hn hsl hcls hkey hr l hl
    exact h.latch.kr _ (by rwa [latch_wkr])
  · rw [h.latch.ks]

theorem keyBytes_eq {l : Nat} (hr : keyBytesReady l s = true) : keyBytes l s = keyBytes l t :=
  keyBytes_congr fun j hj => h.keyin j (keyBytesReady_iff.1 hr j hj)

theorem effectOf {i : Instr} (hr : readyOf i (Machine.latch s) = true) :
    SameWritten (effectOf i (Machine.latch s)) (effectOf i (Machine.latch t)) := by
  have heff := effect_effectOf i (Machine.latch s)
  generalize Machine.effectOf i (Machine.latch s) = u at heff
  cases heff with
  | lanes hn hsl =>
    rw [effectOf_lanes hn hsl]
    exact h.latch.commitLanes fun l hl => h.resultOf_eq hn hsl hr hl
  | keyexp k l =>
    rw [h.latch.keyBytes_eq hr]
    exact h.latch.writeSlot k _
  | keyinv k ss =>
    rw [h.latch.ks]
    exact h.latch.writeSlot k _
  | rkreadKr dl k ri =>
    rw [h.latch.ks]
    exact h.latch.writeKr dl _
  | rkreadSt dl k ri =>
    rw [h.latch.ks]
    exact h.latch.writeSt dl _
  | capinit => exact h.latch
  | qhwavail =>
    rw [h.latch.caps]
    exact h.latch.setRes _
  | qlanes =>
    rw [h.latch.caps]
    exact h.latch.setRes _

theorem exec (i : Instr) : outcomesRelated SameWritten (exec i s) (exec i t) := by
  have hcheck := h.latch.checkOf_eq i
  have hready := h.latch.readyOf_eq i
  obtain ⟨c, hc, hs⟩ | ⟨hc, hr, hs⟩ | ⟨hc, hr, hs⟩ := exec_cases i s
  · rw [hs, exec_raises (hcheck ▸ hc)]
    exact h.latch.raise c _
  · rw [hs, exec_completes (hcheck ▸ hc) (hready ▸ hr), pathOf_congr i h.latch.caps h.latch.config]
    exact (h.effectOf hr).complete _
  · rw [hs, exec_unwritten (hcheck ▸ hc) (hready ▸ hr)]
    exact rfl

/-! ## The port -/

theorem withPortLane {f g : Lane → Result} (hfg : ∀ l, outcomesRelated SameWritten (f l) (g l)) (i : Nat) :
    outcomesRelated SameWritten (withPortLane i s f) (withPortLane i t g) := by
  by_cases hi : i < 4
  · rw [withPortLane_lt hi, withPortLane_lt hi]
    exact hfg ⟨i, hi⟩
  · rw [withPortLane_out (by omega), withPortLane_out (by omega)]
    exact h.raise .laneOutOfRange 0

/-- A written lane reads the same in both states; an unwritten one stops both. -/
theorem readLane {tags : Quad Bool} {a b : Quad Block} (hab : agreeWritten tags a b) (l : Lane) :
    outcomesRelated SameWritten (readLane a tags l s) (readLane b tags l t) := by
  unfold Machine.readLane
  by_cases hw : tags.get l = true
  · rw [if_pos hw, if_pos hw, hab l hw]
    exact h.setReply _
  · rw [if_neg hw, if_neg hw]
    exact rfl

theorem issueWord (cw : Word) : outcomesRelated SameWritten (issueWord cw s) (issueWord cw t) := by
  unfold Machine.issueWord
  split
  · exact h.latch.raise .illegalCommand cw
  · next i _ => exact h.exec i

theorem perform (op : HostOp) : outcomesRelated SameWritten (perform op s) (perform op t) := by
  cases op <;> simp only [Machine.perform]
  case writeSt i v => exact h.withPortLane (fun l => (h.writeSt l v).next) i
  case writeKr i v => exact h.withPortLane (fun l => (h.writeKr l v).next) i
  case readSt i => exact h.withPortLane (fun l => h.wst ▸ h.readLane h.st l) i
  case readKr i => exact h.withPortLane (fun l => h.wkr ▸ h.readLane h.kr l) i
  case writeKeyin b =>
    split
    · exact h.writeKeyin b
    · exact h.raise .laneOutOfRange 0
  case readCaps => rw [h.latch.caps]; exact h.latch.setReply _
  case readStatus => rw [h.status]; exact h.setReply _
  case readFcmd => rw [h.fcmd]; exact h.setReply _
  case readRes => rw [h.res]; exact h.setReply _
  case issue cw => exact h.issueWord cw
  case reset => exact h.resetEngine

theorem present (op : HostOp) : outcomesRelated SameWritten (present op s) (present op t) := by
  have hhalted : halted s = halted t := by rw [halted, halted, h.status]
  unfold Machine.present
  rw [hhalted]
  split
  · exact rfl
  · exact h.perform op

end SameWritten

/-- Settles O60: both states take the same operation, and every read of storage is behind its written tag. -/
theorem unwrittenUnobservable : Obligations.UnwrittenUnobservable := by
  intro s t h
  cases hp : s.port with
  | nil =>
    rw [step_nil hp, step_nil (h.port ▸ hp)]
    exact h
  | cons op rest =>
    rw [step_cons hp, step_cons (h.port ▸ hp)]
    exact (h.taken rest).present op

end Sys2Proof.Machine
end

section
/-!
The host port: what each accepted operation leaves, which operations are refused, the order they are taken in, and the
schedules that several hosts share.
-/

namespace Sys2Proof.Machine

/-! ## Accepted operations -/

/-- An operation that the engine accepts is performed, with the operation taken off the port. -/
theorem step_accepted {s : State} {op : HostOp} {rest : List HostOp} (hp : s.port = op :: rest)
    (ha : halted s = false ∨ acceptedInHalted op = true) : step s = perform op (taken s rest) := by
  rw [step_cons hp]
  obtain hrunning | hop := ha
  · exact present_not_halted hrunning
  · exact present_accepted hop

theorem acceptedInHalted_iff {op : HostOp} :
    acceptedInHalted op = true ↔ op ∈ [HostOp.reset, .readStatus, .readFcmd] := by
  cases op <;> simp [acceptedInHalted]

@[simp] theorem perform_writeSt (l : Lane) (v : Block) (s : State) :
    perform (.writeSt l.val v) s = .next (s.writeSt l v) := by
  rw [perform, withPortLane_lane]

@[simp] theorem perform_writeKr (l : Lane) (v : Block) (s : State) :
    perform (.writeKr l.val v) s = .next (s.writeKr l v) := by
  rw [perform, withPortLane_lane]

@[simp] theorem perform_readSt (l : Lane) (s : State) :
    perform (.readSt l.val) s = readLane s.st s.wst l s := by
  rw [perform, withPortLane_lane]

@[simp] theorem perform_readKr (l : Lane) (s : State) :
    perform (.readKr l.val) s = readLane s.kr s.wkr l s := by
  rw [perform, withPortLane_lane]

theorem perform_writeKeyin {b : List Byte} (hb : b.length ≤ 32) (s : State) :
    perform (.writeKeyin b) s = .next (s.writeKeyin b) := if_pos hb

theorem readLane_written {file : Quad Block} {tags : Quad Bool} {l : Lane} (h : tags.get l = true) (s : State) :
    readLane file tags l s = .next (s.setReply (.block (file.get l))) := if_pos h

theorem readLane_unwritten {file : Quad Block} {tags : Quad Bool} {l : Lane} (h : tags.get l = false) (s : State) :
    readLane file tags l s = .fault .unwritten := by
  simp [readLane, h]

theorem issueWord_ok {cw : Word} {i : Instr} (h : decode cw = .ok i) (s : State) : issueWord cw s = exec i s := by
  simp only [issueWord, h]

theorem issueWord_error {cw : Word} {why : Illegal} (h : decode cw = .error why) (s : State) :
    issueWord cw s = .next (raise .illegalCommand cw (latch s)) := by
  simp only [issueWord, h]

/-- R93: what a contract violation of the port leaves. -/
theorem hostFatal_eq (s : State) : hostFatal s = { s with status := 0x00001102, fcmd := 0 } := rfl

/-- R89: the bytes of a KEYIN transfer, and the bytes behind it as they were. -/
theorem writeKeyin_byte (s : State) (b : List Byte) (j : Fin 32) :
    (s.writeKeyin b).keyin[j] = (if j.val < b.length then b.getD j.val 0 else s.keyin[j]) ∧
    (s.writeKeyin b).wki[j] = (if j.val < b.length then true else s.wki[j]) := by
  by_cases hj : j.val < b.length <;> simp [hj]

/-- Settles O48. -/
theorem stepRunsDecoded : Obligations.StepRunsDecoded := by
  intro s cw rest i hrunning hp hdecode
  rw [step_accepted hp (.inl hrunning)]
  exact issueWord_ok hdecode (taken s rest)

/-- Settles O50: each write is one named update of the state in which the operation is taken. -/
theorem portWrites : Obligations.PortWrites := by
  intro s rest hrunning
  refine ⟨fun l v hp => ?_, fun l v hp => ?_, fun b hb hp => ?_⟩ <;> rw [step_accepted hp (.inl hrunning)]
  · exact ⟨_, perform_writeSt l v _, rfl, fun m => ⟨Quad.get_set _ l m v, Quad.get_set _ l m true⟩⟩
  · exact ⟨_, perform_writeKr l v _, rfl, fun m => ⟨Quad.get_set _ l m v, Quad.get_set _ l m true⟩⟩
  · exact ⟨_, perform_writeKeyin hb _, rfl, writeKeyin_byte (taken s rest) b⟩

/-- Settles O51: a lane read asks its written tag; a register read replies, and READ_CAPS latches before it. -/
theorem portReads : Obligations.PortReads := by
  intro s rest hrunning
  refine ⟨fun l hp => ?_, fun l hp => ?_, fun hp => ?_, fun hp => ?_, fun hp => ?_, fun hp => ?_⟩ <;>
    rw [step_accepted hp (.inl hrunning)]
  · rw [perform_readSt]
    exact ⟨fun hw => readLane_written hw _, fun hw => readLane_unwritten hw _⟩
  · rw [perform_readKr]
    exact ⟨fun hw => readLane_written hw _, fun hw => readLane_unwritten hw _⟩
  · simp only [perform, latch_eq]
    rfl
  all_goals rfl

/-- Settles O52, by the operation that breaks the contract. -/
theorem portBounds : Obligations.PortBounds := by
  intro s op rest hrunning hp hout
  have hfatal : perform op (taken s rest) = .next (hostFatal (taken s rest)) := by
    obtain ⟨i, v, hi, rfl | rfl⟩ | ⟨i, hi, rfl | rfl⟩ | ⟨b, hb, rfl⟩ := hout <;>
      rw [perform]
    iterate 4 exact withPortLane_out hi
    exact if_neg (by omega)
  rw [step_accepted hp (.inl hrunning), hfatal, hostFatal_eq]
  rfl

/-- Settles O54. -/
theorem haltedOperations : Obligations.HaltedOperations := by
  intro s op rest hhalted hp
  refine ⟨fun hreset hstatus hfcmd => ?_, ?_, ?_⟩
  · have hop : acceptedInHalted op = false := by
      simp [← Bool.not_eq_true, acceptedInHalted_iff, hreset, hstatus, hfcmd]
    rw [step_cons hp]
    exact present_refused hhalted hop
  · rintro rfl
    exact step_accepted hp (.inr rfl)
  · rintro rfl
    exact step_accepted hp (.inr rfl)

/-! ## The order of the operations -/

/-- The port is the hosts': no operation writes what they will present next. -/
theorem Performed.port_eq {s t : State} {op : HostOp} (h : Performed s op t) : t.port = s.port := by
  cases h with
  | command _ he =>
    obtain ⟨-, -, -, hport, -⟩ := accessSummary _ _ _ he
    exact hport
  | hostFatal => rw [hostFatal_eq]
  | illegal | readCaps => simp
  | _ => rfl

/-- A step that answers a next state takes the head of the port. -/
theorem step_port {s t : State} {op : HostOp} {rest : List HostOp} (hp : s.port = op :: rest)
    (h : step s = .next t) : t.port = rest := by
  rw [step_cons hp] at h
  exact (performed_of_next (present_next h).2).port_eq

theorem withPortLane_next {i : Nat} {s : State} {access : Lane → Result} (h : ∀ l, ∃ t, access l = .next t) :
    ∃ t, withPortLane i s access = .next t := by
  by_cases hi : i < 4
  · rw [withPortLane_lt hi]
    exact h ⟨i, hi⟩
  · exact ⟨_, withPortLane_out (by omega)⟩

/-- Only a lane read and the ISSUE of a legal word can stop. -/
theorem perform_next {op : HostOp} (hst : ∀ l, op ≠ .readSt l) (hkr : ∀ l, op ≠ .readKr l)
    (hissue : ∀ cw i, op = .issue cw → decode cw ≠ .ok i) (s : State) : ∃ t, perform op s = .next t := by
  cases op with
  | readSt l => exact absurd rfl (hst l)
  | readKr l => exact absurd rfl (hkr l)
  | issue cw =>
    cases hdecode : decode cw with
    | error why => exact ⟨_, issueWord_error hdecode s⟩
    | ok i => exact absurd hdecode (hissue cw i rfl)
  | writeSt i v | writeKr i v =>
    rw [perform]
    exact withPortLane_next fun l => ⟨_, rfl⟩
  | writeKeyin b =>
    by_cases hb : b.length ≤ 32
    · exact ⟨_, perform_writeKeyin hb s⟩
    · exact ⟨_, if_neg hb⟩
  | readCaps | readStatus | readFcmd | readRes | reset => exact ⟨_, rfl⟩

/-- Settles O57. -/
theorem portOrder : Obligations.PortOrder := by
  refine ⟨fun s => step_nil, fun s t op rest => step_port, fun s op rest hp ha hst hkr hissue => ?_⟩
  rw [step_accepted hp (ha.imp_right acceptedInHalted_iff.2)]
  exact perform_next hst hkr hissue (taken s rest)

/-! ## Runs, and the schedules that hosts share (R79) -/

/-- What a state satisfies and every step keeps holds in every state a run reaches. -/
theorem Reaches.keeps {P : State → Prop} {s t : State} (h : Reaches s t) (hs : P s)
    (hstep : ∀ u v, P u → step u = .next v → P v) : P t := by
  induction h with
  | refl => exact hs
  | tail _ hn ih => exact hstep _ _ ih hn

/-- An interleaving holds the hosts' operations and no other. -/
theorem Interleaves.mem_host {hosts : List (List HostOp)} {order : List HostOp} (h : Interleaves hosts order)
    {op : HostOp} (hop : op ∈ order) : ∃ host ∈ hosts, op ∈ host := by
  induction h with
  | done => cases hop
  | @take before after first rest order _ ih =>
    obtain rfl | hop := List.mem_cons.1 hop
    · exact ⟨op :: rest, by simp, by simp⟩
    · obtain ⟨host, hhost, hmem⟩ := ih hop
      obtain hb | rfl | ha : host ∈ before ∨ host = rest ∨ host ∈ after := by simpa using hhost
      · exact ⟨host, by simp [hb], hmem⟩
      · exact ⟨first :: host, by simp, by simp [hmem]⟩
      · exact ⟨host, by simp [ha], hmem⟩

/-- A slot is written by RESET and by an ISSUE of the KEYEXP or KEYINV that names it, by nothing else (R34, R281). -/
theorem Performed.ks_get {s t : State} {op : HostOp} {k : Lane} (h : Performed s op t) (hk : ¬ writesSlot k op) :
    t.ks.get k = s.ks.get k := by
  cases h with
  | reset => exact absurd (.inl rfl) hk
  | command hdecode he =>
    obtain ⟨-, -, -, -, -, -, -, -, -, hslot, -⟩ := accessSummary _ _ _ he
    refine hslot k (fun l hi => hk ?_) (fun ss hi => hk ?_)
    · exact .inr ⟨_, rfl, .inl ⟨l, hi ▸ hdecode⟩⟩
    · exact .inr ⟨_, rfl, .inr ⟨ss, hi ▸ hdecode⟩⟩
  | hostFatal => rw [hostFatal_eq]
  | illegal | readCaps => simp
  | _ => rfl

/-- Slot `k` holds `q`, and no operation still to come writes it. -/
structure SlotSettled (k : Lane) (q : Slot) (s : State) : Prop where
  slot : s.ks.get k = q
  pending : ∀ op ∈ s.port, ¬ writesSlot k op

theorem SlotSettled.of_step {k : Lane} {q : Slot} {s t : State} (h : SlotSettled k q s) (hstep : step s = .next t) :
    SlotSettled k q t := by
  obtain ⟨-, rfl⟩ | ⟨op, rest, hp, -, hperformed⟩ := step_performed hstep
  · exact h
  · have hpending : ∀ o ∈ op :: rest, ¬ writesSlot k o := hp ▸ h.pending
    have hport : t.port = rest := hperformed.port_eq
    have hslot : t.ks.get k = s.ks.get k := hperformed.ks_get (hpending op List.mem_cons_self)
    exact ⟨hslot.trans h.slot, fun o ho => hpending o (List.mem_cons_of_mem op (hport ▸ ho))⟩

/-- Settles O56: the settled slot is an invariant of the run, whatever interleaving the port holds at its start. -/
theorem sharedSchedule : Obligations.SharedSchedule := by
  intro s t hosts order k horder hhosts hrun
  have hstart : SlotSettled k (s.ks.get k) { s with port := order } :=
    ⟨rfl, fun op hop =>
      have ⟨host, hhost, hmem⟩ := horder.mem_host hop
      hhosts host hhost op hmem⟩
  exact (hrun.keeps hstart fun _ _ => SlotSettled.of_step).slot

end Sys2Proof.Machine
end

section
/-!
The command words: the decoder and the encoder are inverse to each other, and the legal words are those of the masks
and the extra conditions. The five datapath classes have one decoder each, so each has its lemmas once, about that
decoder; a statement about all commands then goes over the mnemonics class by class.
-/

namespace Sys2Proof

/-! ## The encoding space of a mnemonic (R104, R106) -/

/-- Every encoding lies in the encoding space of its mnemonic. -/
theorem encodedOpcode (i : Instr) : Laws.EncodedOpcode.Statement i := by
  open Laws.EncodedOpcode in
  exact i.casesOn subbytes invsubbytes shiftrows invshiftrows mixcolumns invmixcolumns addroundkey
    round finalround invround invfinalround roundkf finalroundkf invroundkf invfinalroundkf
    roundnk finalroundnk invroundnk invfinalroundnk rounds roundsfin invrounds invroundsfin
    roundskf roundskffin invroundskf invroundskffin roundsnk roundsnkfin invroundsnk invroundsnkfin
    encrypt decrypt keyexp keyinv rkread capinit qhwavail qlanes

@[simp] theorem opField_encode (i : Instr) : opField (encode i) = i.mnemonic.op := (encodedOpcode i).1

theorem encode_masked (i : Instr) : encode i &&& i.mnemonic.cls.mask = i.mnemonic.pattern := (encodedOpcode i).2

theorem ofOp_eq_some_iff {o : BitVec 8} {m : Mnemonic} : Mnemonic.ofOp o = some m ↔ o = m.op :=
  ⟨fun h => (op_of_ofOp h).symm, fun h => h ▸ ofOp_op m⟩

/-- R107: what a word that decodes has passed. -/
theorem decode_eq_ok_iff {cw : Word} {i : Instr} :
    decode cw = .ok i ↔
      ∃ m : Mnemonic, opField cw = m.op ∧ cw &&& m.cls.mask = m.pattern ∧ decodeOperands m cw = .ok i := by
  simp only [← ofOp_eq_some_iff]
  unfold decode
  cases Mnemonic.ofOp (opField cw) with
  | none => simp
  | some m => by_cases h : cw &&& m.cls.mask = m.pattern <;> simp [h]

/-- In the encoding space of its mnemonic, the encoding of an instruction is read by the operand decoder alone. -/
theorem decode_encode_iff {i j : Instr} :
    decode (encode i) = .ok j ↔ decodeOperands i.mnemonic (encode i) = .ok j := by
  simp [decode, encode_masked]

/-! ## Operands that are counts (R103, R111) -/

theorem toNat_ofNat_of_indexOk {ri : Nat} (h : indexOk ri = true) : (BitVec.ofNat 4 ri).toNat = ri := by
  have : ri ≤ 15 := of_decide_eq_true h
  rw [BitVec.toNat_ofNat]
  omega

theorem toNat_ofNat_of_lengthOk {l : Nat} (h : lengthOk l = true) : (BitVec.ofNat 6 l).toNat = l := by
  have : l ≤ 63 := of_decide_eq_true h
  rw [BitVec.toNat_ofNat]
  omega

theorem indexOk_toNat (v : BitVec 4) : indexOk v.toNat = true := decide_eq_true (by omega)

theorem lengthOk_toNat (v : BitVec 6) : lengthOk v.toNat = true := decide_eq_true (by omega)

/-! ## Decoding an encoding, class by class -/

section DecodeEncode

variable (m : Mnemonic) (n : LaneCount) (sl : Lane) (key : KeySel)

theorem decodeLanes_encodeLanes (mk : LaneCount → Lane → Instr) :
    decodeLanes (encodeLanes m n sl) mk = .ok (mk n sl) := by
  simp [decodeLanes, encodeLanes]

theorem decodeKeyed_encodeKeyed (mk : LaneCount → Lane → KeySel → Instr) :
    decodeKeyed (encodeKeyed m n sl key) mk = .ok (mk n sl key) := by
  simp [decodeKeyed, encodeKeyed]

theorem decodeBatchedKeyed_encodeBatchedKeyed (mk : LaneCount → Lane → KeySel → Nat → Nat → Instr) {ri cnt : Nat}
    (h : (indexOk ri && countOk cnt) = true) :
    decodeBatchedKeyed (encodeBatchedKeyed m n sl key ri cnt) mk = .ok (mk n sl key ri cnt) := by
  obtain ⟨hri, hcnt⟩ := Bool.and_eq_true_iff.1 h
  simp only [decodeBatchedKeyed, encodeBatchedKeyed, lnField_fields, slField_fields, bField_fields, kField_fields,
    riField_fields, ncField_fields, laneCountOf_code, laneOf_laneCode, keySelOf_code, roundCountOf_code hcnt,
    toNat_ofNat_of_indexOk hri]

theorem decodeBatched_encodeBatched (mk : LaneCount → Lane → Nat → Instr) {cnt : Nat} (h : countOk cnt = true) :
    decodeBatched (encodeBatched m n sl cnt) mk = .ok (mk n sl cnt) := by
  simp only [decodeBatched, encodeBatched, lnField_fields, slField_fields, ncField_fields, laneCountOf_code,
    laneOf_laneCode, roundCountOf_code h]

theorem decodeCipher_encodeCipher (mk : LaneCount → Lane → KeySel → Variant → Instr) (v : Variant) :
    decodeCipher (encodeCipher m n sl key v) mk = .ok (mk n sl key v) := by
  simp only [decodeCipher, decodeKeyed, encodeCipher, lnField_fields, slField_fields, bField_fields, kField_fields,
    x2Field_fields, laneCountOf_code, laneOf_laneCode, keySelOf_code, variantOf_code]

end DecodeEncode

theorem decodeOperands_encode {i : Instr} (h : i.wf = true) : decodeOperands i.mnemonic (encode i) = .ok i := by
  cases i with
  | subbytes | invsubbytes | shiftrows | invshiftrows | mixcolumns | invmixcolumns | roundnk | finalroundnk
  | invroundnk | invfinalroundnk => exact decodeLanes_encodeLanes ..
  | addroundkey | round | finalround | invround | invfinalround | roundkf | finalroundkf | invroundkf
  | invfinalroundkf => exact decodeKeyed_encodeKeyed ..
  | rounds | roundsfin | invrounds | invroundsfin | roundskf | roundskffin | invroundskf | invroundskffin =>
    exact decodeBatchedKeyed_encodeBatchedKeyed _ _ _ _ _ h
  | roundsnk | roundsnkfin | invroundsnk | invroundsnkfin => exact decodeBatched_encodeBatched _ _ _ _ h
  | encrypt | decrypt => exact decodeCipher_encodeCipher ..
  | keyexp =>
    simp only [decodeOperands, Instr.mnemonic, encode, kField_fields, lField_fields, laneOf_laneCode,
      toNat_ofNat_of_lengthOk h]
  | keyinv => simp only [decodeOperands, Instr.mnemonic, encode, kField_fields, x2Field_fields, laneOf_laneCode]
  | rkread =>
    simp only [decodeOperands, Instr.mnemonic, encode, kField_fields, riField_fields, x2Field_fields_rkread,
      dField_fields_rkread, laneOf_laneCode, regFileOf_code, toNat_ofNat_of_indexOk h]
  | capinit | qhwavail | qlanes => rfl

/-- Settles O1: opcode and mask are those of the mnemonic, and every operand field reads back. -/
theorem decodeEncode : Obligations.DecodeEncode := fun _ h => decode_encode_iff.2 (decodeOperands_encode h)

/-! ## What each class decodes -/

section Decoders

variable {cw : Word} {i : Instr}

theorem decodeLanes_eq_ok_iff {mk : LaneCount → Lane → Instr} :
    decodeLanes cw mk = .ok i ↔ ∃ n, laneCountOf (lnField cw) = some n ∧ mk n (laneOf (slField cw)) = i := by
  unfold decodeLanes
  cases laneCountOf (lnField cw) <;> simp

theorem decodeKeyed_eq_ok_iff {mk : LaneCount → Lane → KeySel → Instr} :
    decodeKeyed cw mk = .ok i ↔
      ∃ n key, laneCountOf (lnField cw) = some n ∧ keySelOf (bField cw) (kField cw) = some key ∧
        mk n (laneOf (slField cw)) key = i := by
  unfold decodeKeyed
  cases laneCountOf (lnField cw) <;> cases keySelOf (bField cw) (kField cw) <;> simp

theorem decodeBatchedKeyed_eq_ok_iff {mk : LaneCount → Lane → KeySel → Nat → Nat → Instr} :
    decodeBatchedKeyed cw mk = .ok i ↔
      ∃ n key cnt, laneCountOf (lnField cw) = some n ∧ keySelOf (bField cw) (kField cw) = some key ∧
        roundCountOf (ncField cw) = some cnt ∧ mk n (laneOf (slField cw)) key (riField cw).toNat cnt = i := by
  unfold decodeBatchedKeyed
  cases laneCountOf (lnField cw) <;> cases keySelOf (bField cw) (kField cw) <;>
    cases roundCountOf (ncField cw) <;> simp

theorem decodeBatched_eq_ok_iff {mk : LaneCount → Lane → Nat → Instr} :
    decodeBatched cw mk = .ok i ↔
      ∃ n cnt, laneCountOf (lnField cw) = some n ∧ roundCountOf (ncField cw) = some cnt ∧
        mk n (laneOf (slField cw)) cnt = i := by
  unfold decodeBatched
  cases laneCountOf (lnField cw) <;> cases roundCountOf (ncField cw) <;> simp

theorem decodeCipher_eq_ok_iff {mk : LaneCount → Lane → KeySel → Variant → Instr} :
    decodeCipher cw mk = .ok i ↔
      ∃ n key, laneCountOf (lnField cw) = some n ∧ keySelOf (bField cw) (kField cw) = some key ∧
        mk n (laneOf (slField cw)) key (variantOf (x2Field cw)) = i :=
  decodeKeyed_eq_ok_iff

end Decoders

/-! ## Encoding what a word decodes to -/

/-- R101, R102, R106: the operand fields of a class, each as its lowest bit and its width. -/
def Class.operandFields : Class → List (Nat × Nat)
  | .t => [(22, 2), (20, 2)]
  | .tk => [(22, 2), (20, 2), (19, 1), (17, 2)]
  | .bk => [(22, 2), (20, 2), (19, 1), (17, 2), (13, 4), (10, 3)]
  | .bn => [(22, 2), (20, 2), (10, 3)]
  | .c => [(22, 2), (20, 2), (19, 1), (17, 2), (11, 2)]
  | .kexp => [(17, 2), (7, 6)]
  | .kinv => [(17, 2), (11, 2)]
  | .rkr => [(17, 2), (13, 4), (11, 2), (10, 1)]
  | .sys => []

/-- R106: each bit of a word is fixed by the mask of the class or lies in one of the class's operand fields. -/
theorem mask_or_operandFields (cls : Class) (j : Fin 32) :
    cls.mask.getLsbD j = true ∨ ∃ p ∈ cls.operandFields, p.1 ≤ j.val ∧ j.val < p.1 + p.2 := by
  revert j
  cases cls <;> decide

/-- The operand fields of the class hold the same in both words. -/
def SameOperands (cls : Class) (a b : Word) : Prop :=
  ∀ p ∈ cls.operandFields, a.extractLsb' p.1 p.2 = b.extractLsb' p.1 p.2

/-- Two words that agree under the mask of a class and in its operand fields are one word. -/
theorem word_eq_of_sameOperands {cls : Class} {a b : Word} (hmask : a &&& cls.mask = b &&& cls.mask)
    (hop : SameOperands cls a b) : a = b := by
  apply BitVec.eq_of_getLsbD_eq
  intro j hj
  obtain hset | ⟨p, hp, hlo, hhi⟩ := mask_or_operandFields cls ⟨j, hj⟩
  · simpa [show cls.mask.getLsbD j = true from hset] using congrArg (BitVec.getLsbD · j) hmask
  · have hbit := congrArg (BitVec.getLsbD · (j - p.1)) (hop p hp)
    simp only at hlo hhi
    simpa [BitVec.getLsbD_extractLsb', show j - p.1 < p.2 by omega, show p.1 + (j - p.1) = j by omega] using hbit

/-- A word in the encoding space of an instruction's mnemonic, with the operands of its encoding, is its encoding. -/
theorem encode_eq_of_sameOperands {i : Instr} {cw : Word} (hmask : cw &&& i.mnemonic.cls.mask = i.mnemonic.pattern)
    (hop : SameOperands i.mnemonic.cls (encode i) cw) : encode i = cw :=
  word_eq_of_sameOperands ((encode_masked i).trans hmask.symm) hop

section SameOperands

variable (m : Mnemonic) {cw : Word} {n : LaneCount} {key : KeySel} {cnt : Nat}
  (hn : laneCountOf (lnField cw) = some n) (hkey : keySelOf (bField cw) (kField cw) = some key)
  (hcnt : roundCountOf (ncField cw) = some cnt)
include hn

theorem sameOperands_encodeLanes : SameOperands .t (encodeLanes m n (laneOf (slField cw))) cw := by
  simp only [SameOperands, Class.operandFields, List.forall_mem_cons]
  exact ⟨(lnField_fields ..).trans (code_of_laneCountOf hn), slField_fields .., by simp⟩

include hkey in
theorem sameOperands_encodeKeyed : SameOperands .tk (encodeKeyed m n (laneOf (slField cw)) key) cw := by
  obtain ⟨hb, hk⟩ := code_of_keySelOf hkey
  simp only [SameOperands, Class.operandFields, List.forall_mem_cons]
  exact ⟨(lnField_fields ..).trans (code_of_laneCountOf hn), slField_fields .., (bField_fields ..).trans hb,
    (kField_fields ..).trans hk, by simp⟩

include hkey hcnt in
theorem sameOperands_encodeBatchedKeyed :
    SameOperands .bk (encodeBatchedKeyed m n (laneOf (slField cw)) key (riField cw).toNat cnt) cw := by
  obtain ⟨hb, hk⟩ := code_of_keySelOf hkey
  simp only [SameOperands, Class.operandFields, List.forall_mem_cons]
  exact ⟨(lnField_fields ..).trans (code_of_laneCountOf hn), slField_fields .., (bField_fields ..).trans hb,
    (kField_fields ..).trans hk, (riField_fields ..).trans (BitVec.ofNat_toNat ..),
    (ncField_fields ..).trans (code_of_roundCountOf hcnt).1, by simp⟩

include hcnt in
theorem sameOperands_encodeBatched : SameOperands .bn (encodeBatched m n (laneOf (slField cw)) cnt) cw := by
  simp only [SameOperands, Class.operandFields, List.forall_mem_cons]
  exact ⟨(lnField_fields ..).trans (code_of_laneCountOf hn), slField_fields ..,
    (ncField_fields ..).trans (code_of_roundCountOf hcnt).1, by simp⟩

include hkey in
theorem sameOperands_encodeCipher :
    SameOperands .c (encodeCipher m n (laneOf (slField cw)) key (variantOf (x2Field cw))) cw := by
  obtain ⟨hb, hk⟩ := code_of_keySelOf hkey
  simp only [SameOperands, Class.operandFields, List.forall_mem_cons]
  exact ⟨(lnField_fields ..).trans (code_of_laneCountOf hn), slField_fields .., (bField_fields ..).trans hb,
    (kField_fields ..).trans hk, (x2Field_fields ..).trans (code_variantOf _), by simp⟩

end SameOperands

theorem wf_and_encode_of_decodeOperands {m : Mnemonic} {cw : Word} {i : Instr}
    (hmask : cw &&& m.cls.mask = m.pattern) (h : decodeOperands m cw = .ok i) : i.wf = true ∧ encode i = cw := by
  cases m with
  | subbytes | invsubbytes | shiftrows | invshiftrows | mixcolumns | invmixcolumns | roundnk | finalroundnk
  | invroundnk | invfinalroundnk =>
    obtain ⟨n, hn, rfl⟩ := decodeLanes_eq_ok_iff.1 h
    exact ⟨rfl, encode_eq_of_sameOperands hmask (sameOperands_encodeLanes _ hn)⟩
  | addroundkey | round | finalround | invround | invfinalround | roundkf | finalroundkf | invroundkf
  | invfinalroundkf =>
    obtain ⟨n, key, hn, hkey, rfl⟩ := decodeKeyed_eq_ok_iff.1 h
    exact ⟨rfl, encode_eq_of_sameOperands hmask (sameOperands_encodeKeyed _ hn hkey)⟩
  | rounds | roundsfin | invrounds | invroundsfin | roundskf | roundskffin | invroundskf | invroundskffin =>
    obtain ⟨n, key, cnt, hn, hkey, hcnt, rfl⟩ := decodeBatchedKeyed_eq_ok_iff.1 h
    exact ⟨Bool.and_eq_true_iff.2 ⟨indexOk_toNat _, (code_of_roundCountOf hcnt).2⟩,
      encode_eq_of_sameOperands hmask (sameOperands_encodeBatchedKeyed _ hn hkey hcnt)⟩
  | roundsnk | roundsnkfin | invroundsnk | invroundsnkfin =>
    obtain ⟨n, cnt, hn, hcnt, rfl⟩ := decodeBatched_eq_ok_iff.1 h
    exact ⟨(code_of_roundCountOf hcnt).2, encode_eq_of_sameOperands hmask (sameOperands_encodeBatched _ hn hcnt)⟩
  | encrypt | decrypt =>
    obtain ⟨n, key, hn, hkey, rfl⟩ := decodeCipher_eq_ok_iff.1 h
    exact ⟨rfl, encode_eq_of_sameOperands hmask (sameOperands_encodeCipher _ hn hkey)⟩
  | keyexp =>
    cases h
    refine ⟨lengthOk_toNat _, encode_eq_of_sameOperands hmask ?_⟩
    simp only [SameOperands, Instr.mnemonic, Mnemonic.cls, Class.operandFields, List.forall_mem_cons]
    exact ⟨kField_fields .., (lField_fields ..).trans (BitVec.ofNat_toNat ..), by simp⟩
  | keyinv =>
    cases h
    refine ⟨rfl, encode_eq_of_sameOperands hmask ?_⟩
    simp only [SameOperands, Instr.mnemonic, Mnemonic.cls, Class.operandFields, List.forall_mem_cons]
    exact ⟨kField_fields .., x2Field_fields .., by simp⟩
  | rkread =>
    cases h
    refine ⟨indexOk_toNat _, encode_eq_of_sameOperands hmask ?_⟩
    simp only [SameOperands, Instr.mnemonic, Mnemonic.cls, Class.operandFields, List.forall_mem_cons]
    exact ⟨kField_fields .., (riField_fields ..).trans (BitVec.ofNat_toNat ..), x2Field_fields_rkread ..,
      (dField_fields_rkread ..).trans (code_regFileOf _), by simp⟩
  | capinit | qhwavail | qlanes =>
    cases h
    refine ⟨rfl, encode_eq_of_sameOperands hmask ?_⟩
    simp [SameOperands, Instr.mnemonic, Mnemonic.cls, Class.operandFields]

/-- Settles O2: the mask fixes every bit of the word that is in no operand field. -/
theorem encodeDecode : Obligations.EncodeDecode := by
  intro cw i h
  obtain ⟨m, -, hmask, hoperands⟩ := decode_eq_ok_iff.1 h
  exact wf_and_encode_of_decodeOperands hmask hoperands

/-! ## The legal words (R106, R107) -/

theorem exists_laneCountOf_iff {v : BitVec 2} : (∃ n, laneCountOf v = some n) ↔ v ≠ 3 := by
  rw [← Option.isSome_iff_exists]
  revert v
  decide

theorem exists_keySelOf_iff {b : BitVec 1} {k : BitVec 2} : (∃ key, keySelOf b k = some key) ↔ (b = 0 → k = 0) := by
  rw [← Option.isSome_iff_exists]
  revert b k
  decide

theorem exists_roundCountOf_iff {v : BitVec 3} : (∃ cnt, roundCountOf v = some cnt) ↔ v.toNat ≤ 5 := by
  rw [← Option.isSome_iff_exists]
  revert v
  decide

/-- R107: the extra conditions on a word of a class. -/
def Class.Admits (cls : Class) (cw : Word) : Prop :=
  (cls ∈ [Class.t, .tk, .bk, .bn, .c] → lnField cw ≠ 3) ∧
  (cls ∈ [Class.tk, .bk, .c] → bField cw = 0 → kField cw = 0) ∧
  (cls ∈ [Class.bk, .bn] → (ncField cw).toNat ≤ 5)

theorem exists_decodeOperands_iff (m : Mnemonic) (cw : Word) :
    (∃ i, decodeOperands m cw = .ok i) ↔ m.cls.Admits cw := by
  rw [Class.Admits, ← exists_laneCountOf_iff, ← exists_keySelOf_iff, ← exists_roundCountOf_iff]
  cases m with
  | subbytes | invsubbytes | shiftrows | invshiftrows | mixcolumns | invmixcolumns | roundnk | finalroundnk
  | invroundnk | invfinalroundnk => simp [decodeOperands, Mnemonic.cls, decodeLanes_eq_ok_iff]
  | addroundkey | round | finalround | invround | invfinalround | roundkf | finalroundkf | invroundkf
  | invfinalroundkf => simp [decodeOperands, Mnemonic.cls, decodeKeyed_eq_ok_iff]
  | rounds | roundsfin | invrounds | invroundsfin | roundskf | roundskffin | invroundskf | invroundskffin =>
    simp [decodeOperands, Mnemonic.cls, decodeBatchedKeyed_eq_ok_iff]
  | roundsnk | roundsnkfin | invroundsnk | invroundsnkfin =>
    simp [decodeOperands, Mnemonic.cls, decodeBatched_eq_ok_iff]
  | encrypt | decrypt => simp [decodeOperands, Mnemonic.cls, decodeCipher_eq_ok_iff]
  | keyexp | keyinv | rkread | capinit | qhwavail | qlanes => simp [decodeOperands, Mnemonic.cls]

/-- Settles O3: the operand fields of a class decode exactly when its extra conditions hold. -/
theorem legalWords : Obligations.LegalWords := by
  refine fun cw => ⟨?_, fun i h => ?_⟩
  · simp only [decode_eq_ok_iff]
    rw [exists_comm]
    refine exists_congr fun m => ?_
    rw [exists_and_left, exists_and_left, exists_decodeOperands_iff]
    rfl
  · obtain ⟨-, rfl⟩ := encodeDecode cw i h
    exact (opField_encode i).symm

/-! ## The opcodes of the rounds (R105) -/

section Rounds

open Machine

/-- The order field of a round's opcode. -/
def orderCode : Ord → Nat
  | .std => 0
  | .kf => 1
  | .nk => 2

theorem op_roundInstr (ord : Ord) (inv fin : Bool) (n : LaneCount) (sl : Lane) (key : KeySel) :
    (roundInstr ord inv fin n sl key).mnemonic.op.toNat = 0x10 + 4 * orderCode ord + 2 * inv.toNat + fin.toNat := by
  cases ord <;> cases inv <;> cases fin <;> rfl

theorem op_roundsInstr (ord : Ord) (inv fin : Bool) (n : LaneCount) (sl : Lane) (key : KeySel) (ri cnt : Nat) :
    (roundsInstr ord inv fin n sl key ri cnt).mnemonic.op.toNat =
      0x20 + 4 * orderCode ord + 2 * inv.toNat + fin.toNat := by
  cases ord <;> cases inv <;> cases fin <;> rfl

end Rounds

theorem decode_of_ofOp_none {cw : Word} (h : Mnemonic.ofOp (opField cw) = none) : decode cw = .error .opcode := by
  simp only [decode, h]

/-- R105: order 3 is unassigned, in the single rounds and in the batched rounds. -/
theorem ofOp_order_three (o : BitVec 8) (h : o.toNat ∈ [0x1C, 0x1D, 0x1E, 0x1F, 0x2C, 0x2D, 0x2E, 0x2F]) :
    Mnemonic.ofOp o = none := by
  simp only [Mnemonic.ofOp, List.find?_eq_none, beq_iff_eq]
  rintro m - rfl
  revert h
  cases m <;> decide

/-- Settles O4: the twelve opcodes of each family, and no mnemonic with the order 3. -/
theorem opcodeStructure : Obligations.OpcodeStructure := by
  refine ⟨fun inv fin n sl key ri cnt p hp => ?_, fun cw h => decode_of_ofOp_none (ofOp_order_three _ h)⟩
  have hord : orderCode p.1 = p.2 := by
    revert p
    decide
  rw [← hord]
  exact ⟨op_roundInstr .., op_roundsInstr ..⟩

end Sys2Proof
end

section
/-!
The assembler and the disassembler (R110 to R114): the canonical line of an instruction assembles to it, each
pseudo-instruction assembles to its command, and the worked encodings read as their words decode.
-/

namespace Sys2Proof.Asm

/-! ## The canonical operands (R113) -/

@[simp] theorem laneIndex_val (l : Lane) : laneIndex l.val = some l := by
  simp [laneIndex]

@[simp] theorem keyRegSel_keyRegOperand (key : KeySel) : keyRegSel (keyRegOperand key) = some key := by
  cases key <;> simp [keyRegOperand, keyRegSel]

@[simp] theorem slotSel_slotOperand (key : KeySel) : slotSel (slotOperand key) = some key := by
  cases key <;> simp [slotOperand, slotSel]

@[simp] theorem slotAtSel_slotAtOperand (key : KeySel) (ri : Nat) :
    slotAtSel (slotAtOperand key ri) = some (key, ri) := by
  cases key <;> simp [slotAtOperand, slotAtSel]

section Lines

variable (sl : Lane) (key : KeySel)

theorem lineT_canonical (mk : Lane → Instr) : lineT [.lane sl.val] mk = some (mk sl) := by
  simp [lineT]

theorem lineTK_canonical (mk : Lane → KeySel → Instr) :
    lineTK [.lane sl.val, keyRegOperand key] mk = some (mk sl key) := by
  simp [lineTK]

theorem lineBK_canonical (mk : Lane → KeySel → Nat → Nat → Instr) (ri cnt : Nat) :
    lineBK [.lane sl.val, slotAtOperand key ri, .count cnt] mk = some (mk sl key ri cnt) := by
  simp [lineBK]

theorem lineBN_canonical (mk : Lane → Nat → Instr) (cnt : Nat) :
    lineBN [.lane sl.val, .count cnt] mk = some (mk sl cnt) := by
  simp [lineBN]

theorem lineC_canonical (mk : Lane → KeySel → Variant → Instr) (v : Variant) :
    lineC [.lane sl.val, slotOperand key, .variant v] mk = some (mk sl key v) := by
  simp [lineC]

end Lines

theorem commandOf_canonical (i : Instr) :
    commandOf i.mnemonic (i.laneCount?.getD .one) (operandsOf i) = some i := by
  cases i with
  | subbytes | invsubbytes | shiftrows | invshiftrows | mixcolumns | invmixcolumns | roundnk | finalroundnk
  | invroundnk | invfinalroundnk => exact lineT_canonical ..
  | addroundkey | round | finalround | invround | invfinalround | roundkf | finalroundkf | invroundkf
  | invfinalroundkf => exact lineTK_canonical ..
  | rounds | roundsfin | invrounds | invroundsfin | roundskf | roundskffin | invroundskf | invroundskffin =>
    exact lineBK_canonical ..
  | roundsnk | roundsnkfin | invroundsnk | invroundsnkfin => exact lineBN_canonical ..
  | encrypt | decrypt => exact lineC_canonical ..
  | keyexp | keyinv => simp [commandOf, Instr.mnemonic, Instr.laneCount?, operandsOf, noSuffix]
  | rkread dst => cases dst <;> simp [commandOf, Instr.mnemonic, Instr.laneCount?, operandsOf, noSuffix]
  | capinit | qhwavail | qlanes => rfl

/-- R113: the canonical line of a well-formed instruction assembles to it. -/
theorem assemble_disassemble {i : Instr} (h : i.wf = true) : assemble (disassemble i) = some i := by
  simp [assemble, expandLine, disassemble, commandOf_canonical, h]

/-- Settles O7: what a word decodes to is well-formed, and its encoding is the word (`encodeDecode`). -/
theorem disassemblyRoundTrip : Obligations.DisassemblyRoundTrip := by
  intro cw i h
  obtain ⟨hwf, henc⟩ := encodeDecode cw i h
  exact ⟨by rw [assemble_disassemble hwf, Option.map_some, henc], rfl⟩

/-! ## Worked encodings and pseudo-instructions (R112, R114) -/

/-- A text that assembles to the command its word decodes to, assembles to the word. -/
theorem encode_of_decode {r : Option Instr} {cw : Word} (hr : r.isSome = true) (h : (decode cw).toOption = r) :
    r.map encode = some cw := by
  obtain ⟨i, rfl⟩ := Option.isSome_iff_exists.1 hr
  cases hd : decode cw with
  | error why => rw [hd] at h; cases h
  | ok j =>
    rw [hd] at h
    cases h
    rw [Option.map_some, (encodeDecode cw _ hd).2]

/-- Settles O5: each text is read, and each word decoded. -/
theorem workedEncodings : Obligations.WorkedEncodings := by
  intro p hp
  have hread : (assembleText p.1).isSome = true ∧ (decode p.2).toOption = assembleText p.1 := by
    revert p
    decide
  exact ⟨encode_of_decode hread.1 hread.2, hread.2⟩

/-- Settles O6: a pseudo-instruction and the command it stands for are one line once expanded. -/
theorem pseudoInstructions : Obligations.PseudoInstructions := by
  refine fun n ops sl ks => ⟨rfl, rfl, rfl, fun v hv => ?_⟩
  have hany : v ≠ .any := by
    rintro rfl
    simp at hv
  simp [assemble, expandLine, withVariant, hany]

end Sys2Proof.Asm
end

section
/-! The ISSUE of a word that names no command (R107). -/

namespace Sys2Proof.Machine

/-- What an illegal word leaves: the latch, then the Fatal with the word in FCMD (R351, R424). -/
theorem raise_illegalCommand_latch (cw : Word) (s : State) :
    raise .illegalCommand cw (latch s) = { s with caps := latchedCaps s, status := 0x00001002, fcmd := cw } := by
  rw [latch_eq]
  rfl

/-- Settles O49. -/
theorem illegalWord : Obligations.IllegalWord := by
  intro s cw rest why hrunning hp hdecode
  rw [step_accepted hp (.inl hrunning), perform, issueWord_error hdecode, raise_illegalCommand_latch]
  rfl

end Sys2Proof.Machine
end

section
/-!
The execution of a command (R150 to R161): the lane start, unwritten operands, the outcomes, what they depend on, and
the single-lane forms of a datapath command. ADDROUNDKEY is here for its two key selections (R154).
-/

namespace Sys2Proof.Machine

/-! ## ADDROUNDKEY (R154, R196) -/

theorem ark_eq_ofFn (s k : Block) : ark s k = Block.ofFn fun j => s.byte j ^^^ k.byte j :=
  Block.ext_byte fun j => by simp [ark]

/-- R196 for any key selection: lane l takes the key register that the selection gives it. -/
theorem exec_addroundkey {n : LaneCount} {sl : Lane} {key : KeySel} {s : State} (ha : sl.val % n.count = 0)
    (hl : LanesWritten n sl s) (hk : KeysWritten n sl key s) :
    ∃ t, exec (.addroundkey n sl key) s = .next t ∧
      LanesCompleted (.addroundkey n sl key) n sl
        (fun l => Block.ofFn fun j => (s.st.get l).byte j ^^^ (s.kr.get (key.index l)).byte j) s t := by
  have hready : readyOf (.addroundkey n sl key) (latch s) = true := by
    refine Bool.and_eq_true_iff.2 ⟨lanesReady_iff.2 ?_, keysReady_iff.2 ?_⟩
    · simpa [LanesWritten] using hl
    · simpa [KeysWritten] using hk
  have hcheck : checkOf (.addroundkey n sl key) (latch s) = none := checkLanes_eq_none.2 ha
  have hresult : resultOf (.addroundkey n sl key) (latch s) =
      fun l => Block.ofFn fun j => (s.st.get l).byte j ^^^ (s.kr.get (key.index l)).byte j := by
    funext l
    simp [resultOf, ark_eq_ofFn, keyReg]
  exact hresult ▸ exec_lanesCompleted rfl rfl hcheck hready

/-- Settles O13, by the one statement for both key selections. -/
theorem addRoundKeyCommand : Obligations.AddRoundKeyCommand := fun _ _ _ ha hl =>
  ⟨fun _ hk => exec_addroundkey ha hl fun _ _ => hk, fun hk => exec_addroundkey ha hl hk⟩

/-! ## The checks and the written-operand test, class by class (R422, R426) -/

/-- Settles O41: the lane start is the first check of a datapath command. -/
theorem laneStart : Obligations.LaneStart := fun _ _ _ s hn hsl hne =>
  ⟨_, exec_raises (checkOf_misaligned hn hsl hne (latch s)), raised_raise ..⟩

/-- The checks that a command of each class makes. -/
inductive Checks (t : State) : Instr → Option Cause → Prop where
  | lanes {i : Instr} {n : LaneCount} {sl : Lane} : i.laneCount? = some n → i.start? = some sl →
      i.mnemonic.cls ∈ [Class.t, .tk, .bn] → Checks t i (checkLanes n sl)
  | batched {i : Instr} (n : LaneCount) (sl : Lane) (key : KeySel) (ri cnt : Nat) : i.mnemonic.cls = .bk →
      Checks t i (checkLanes n sl <|> checkEmpty n sl key t <|> checkIndex n sl key ri cnt t)
  | cipher {i : Instr} (n : LaneCount) (sl : Lane) (key : KeySel) (v : Variant) : i.mnemonic.cls = .c →
      Checks t i (checkLanes n sl <|> checkEmpty n sl key t <|> checkVariant n sl key v t)
  | keyexp {i : Instr} (l : Nat) : i.mnemonic.cls = .kexp →
      Checks t i (if (roundsOfLength l).isSome then none else some .invalidKeyLength)
  | keyinv {i : Instr} (ss : Lane) : i.mnemonic.cls = .kinv →
      Checks t i (if (t.ks.get ss).rounds = 0 then some .scheduleEmpty else none)
  | rkread {i : Instr} (k : Lane) (ri : Nat) : i.mnemonic.cls = .rkr →
      Checks t i
        (if (t.ks.get k).rounds = 0 then some .scheduleEmpty
        else if (t.ks.get k).rounds < ri then some .roundIndexOutOfRange
        else none)
  | system {i : Instr} : i.mnemonic.cls = .sys → Checks t i none

theorem checks_checkOf (i : Instr) (t : State) : Checks t i (checkOf i t) := by
  cases i with
  | rounds | roundsfin | invrounds | invroundsfin | roundskf | roundskffin | invroundskf | invroundskffin =>
    exact .batched _ _ _ _ _ rfl
  | encrypt | decrypt => exact .cipher _ _ _ _ rfl
  | keyexp k l => exact .keyexp l rfl
  | keyinv k ss => exact .keyinv ss rfl
  | rkread dst dl k ri => exact .rkread k ri rfl
  | capinit | qhwavail | qlanes => exact .system rfl
  | _ => exact .lanes rfl rfl (by simp [Instr.mnemonic, Mnemonic.cls])

/-- A command of class T, TK or BN checks its lane start alone. -/
theorem checkOf_eq_checkLanes {i : Instr} {n : LaneCount} {sl : Lane} (hn : i.laneCount? = some n)
    (hsl : i.start? = some sl) (hcls : i.mnemonic.cls ∈ [Class.t, .tk, .bn]) (t : State) :
    checkOf i t = checkLanes n sl := by
  have hchecks := checks_checkOf i t
  generalize checkOf i t = o at hchecks
  cases hchecks with
  | lanes hn' hsl' => rw [Option.some.inj (hn'.symm.trans hn), Option.some.inj (hsl'.symm.trans hsl)]
  | batched _ _ _ _ _ hc | cipher _ _ _ _ hc | keyexp _ hc | keyinv _ hc | rkread _ _ hc | system hc =>
    simp [hc] at hcls

theorem checkOf_mem_causesOf {i : Instr} {t : State} {c : Cause} (h : checkOf i t = some c) :
    c ∈ causesOf i.mnemonic.cls := by
  have hchecks := checks_checkOf i t
  rw [h] at hchecks
  generalize ho : some c = o at hchecks
  cases hchecks with
  | lanes _ _ hcls =>
    obtain ⟨rfl, -⟩ := checkLanes_cause ho.symm
    simp only [List.mem_cons, List.not_mem_nil, or_false] at hcls
    obtain hcls | hcls | hcls := hcls <;> rw [hcls] <;> decide
  | batched _ _ _ _ _ hcls =>
    rw [hcls]
    obtain hc | ⟨-, hc | ⟨-, hc⟩⟩ := by simpa only [Option.orElse_eq_some] using ho.symm
    · obtain ⟨rfl, -⟩ := checkLanes_cause hc; decide
    · obtain ⟨rfl, -⟩ := checkEmpty_cause hc; decide
    · obtain ⟨rfl, -⟩ := checkIndex_cause hc; decide
  | cipher _ _ _ _ hcls =>
    rw [hcls]
    obtain hc | ⟨-, hc | ⟨-, hc⟩⟩ := by simpa only [Option.orElse_eq_some] using ho.symm
    · obtain ⟨rfl, -⟩ := checkLanes_cause hc; decide
    · obtain ⟨rfl, -⟩ := checkEmpty_cause hc; decide
    · obtain ⟨rfl, -⟩ := checkVariant_cause hc; decide
  | keyexp _ hcls | keyinv _ hcls | rkread _ _ hcls =>
    rw [hcls]
    split_ifs at ho <;> cases ho <;> decide
  | system => cases ho

/-- Among the classes that check their lane start alone, class TK alone has a key selection. -/
theorem cls_eq_tk_of_keyOf {i : Instr} {key : KeySel} (hkey : keyOf i = some key)
    (hcls : i.mnemonic.cls ∈ [Class.t, .tk, .bn]) : i.mnemonic.cls = .tk := by
  cases i with
  | addroundkey | round | finalround | invround | invfinalround | roundkf | finalroundkf | invroundkf
  | invfinalroundkf => rfl
  | rounds | roundsfin | invrounds | invroundsfin | roundskf | roundskffin | invroundskf | invroundskffin
  | encrypt | decrypt => simp [Instr.mnemonic, Mnemonic.cls] at hcls
  | _ => cases hkey

/-- Settles O42: the lane start is the only check of these classes, so the test of the operands decides. -/
theorem unwrittenOperands : Obligations.UnwrittenOperands := by
  intro i n sl s hn hsl ha hcls hunwritten
  have hcheck : checkOf i (latch s) = none := by
    rw [checkOf_eq_checkLanes hn hsl hcls]
    exact checkLanes_eq_none.2 ha
  refine exec_unwritten hcheck ((readyOf_eq_false i s).2 (.inl ⟨n, sl, hn, hsl, hunwritten.imp_right ?_⟩))
  rintro ⟨key, hkey, hk⟩
  exact ⟨cls_eq_tk_of_keyOf hkey hcls, key, hkey, hk⟩

theorem readsTagged_of_readyOf_eq_false {i : Instr} {t : State} (h : readyOf i t = false) :
    readsTagged i.mnemonic.cls = true := by
  cases i with
  | keyinv | rkread | capinit | qhwavail | qlanes => cases h
  | _ => rfl

/-- Settles O43, by the three things that `exec` can do. -/
theorem execOutcomes : Obligations.ExecOutcomes := by
  intro i s
  obtain ⟨c, hc, he⟩ | ⟨-, hr, he⟩ | ⟨-, hr, he⟩ := exec_cases i s
  · exact .inr (.inl ⟨_, c, checkOf_mem_causesOf hc, he, raised_raise c _ s⟩)
  · refine .inl ⟨_, he, completed_complete i s, fun hreads => ?_⟩
    rw [(readyOf_eq_false i s).2 hreads] at hr
    cases hr
  · exact .inr (.inr ⟨readsTagged_of_readyOf_eq_false hr, (readyOf_eq_false i s).1 hr, he⟩)

/-! ## What the outcome and a lane's result depend on (R153, R161) -/

/-- Settles O45: the checks read round counts and the written-operand test reads tags. -/
theorem noDataFaults : Obligations.NoDataFaults := by
  intro i s t hwst hwkr hwki hrounds
  have hcheck : checkOf i (latch s) = checkOf i (latch t) := checkOf_congr i (by simpa using hrounds)
  have hready : readyOf i (latch s) = readyOf i (latch t) :=
    readyOf_congr i (by simpa using hwst) (by simpa using hwkr) (by simpa using hwki)
  obtain ⟨c, hc, hs⟩ | ⟨hc, hr, hs⟩ | ⟨hc, hr, hs⟩ := exec_cases i s
  · rw [hs, exec_raises (hcheck ▸ hc)]
    exact (causeField_raise ..).trans (causeField_raise ..).symm
  · rw [hs, exec_completes (hcheck ▸ hc) (hready ▸ hr)]
    exact (causeField_complete ..).trans (causeField_complete ..).symm
  · rw [hs, exec_unwritten (hcheck ▸ hc) (hready ▸ hr)]
    exact rfl

/-- A lane of a datapath command that completes holds its result. -/
theorem exec_next_lane {i : Instr} {n : LaneCount} {sl l : Lane} {s t : State} (hn : i.laneCount? = some n)
    (hsl : i.start? = some sl) (hl : inLanes n sl l = true) (he : exec i s = .next t)
    (hz : causeField t.status = 0) : t.st.get l = resultOf i (latch s) l := by
  obtain ⟨-, -, rfl⟩ := exec_next_zero he hz
  simp [effectOf_lanes hn hsl, hl]

/-- Settles O46: the result of a lane is computed from what the two states agree on. -/
theorem laneIndependence : Obligations.LaneIndependence := by
  intro i n sl l s t a b hn hsl hl hst hkey hs ht hsz htz
  rw [exec_next_lane hn hsl hl hs hsz, exec_next_lane hn hsl hl ht htz]
  refine resultOf_congr (by simpa using hst) (fun key hk _ => ?_) (fun key hk => ?_)
  · simpa using (hkey key hk).1
  · simpa using (hkey key hk).2

/-! ## The single-lane form of a datapath command (R155) -/

section SingleLane

variable {i j : Instr} {n : LaneCount} {sl l : Lane} {s : State}

theorem exists_singleLane (hn : i.laneCount? = some n) (l : Lane) :
    ∃ j, singleLane l i = some j ∧ j.laneCount? = some .one ∧ j.start? = some l := by
  cases i with
  | keyexp | keyinv | rkread | capinit | qhwavail | qlanes => cases hn
  | _ => exact ⟨_, rfl, rfl, rfl⟩

theorem resultOf_singleLane (hj : singleLane l i = some j) : resultOf j s l = resultOf i s l := by
  cases i <;> cases hj <;> rfl

theorem checkLanes_one (l : Lane) : checkLanes .one l = none :=
  checkLanes_eq_none.2 (Nat.mod_one _)

theorem lanesReady_one (hl : inLanes n sl l = true) (h : lanesReady n sl s = true) : lanesReady .one l s = true :=
  lanesReady_iff.2 fun _ hm => inLanes_one.1 hm ▸ lanesReady_iff.1 h l hl

theorem keysReady_one {key : KeySel} (hl : inLanes n sl l = true) (h : keysReady n sl key s = true) :
    keysReady .one l (.broadcast (key.index l)) s = true :=
  keysReady_iff.2 fun _ _ => keysReady_iff.1 h l hl

variable (hn : i.laneCount? = some n) (hsl : i.start? = some sl) (hl : inLanes n sl l = true)
  (hj : singleLane l i = some j)
include hn hsl hl hj

theorem checkOf_singleLane (h : checkOf i s = none) : checkOf j s = none := by
  cases i with
  | rounds _ _ key ri cnt | roundsfin _ _ key ri cnt | invrounds _ _ key ri cnt | invroundsfin _ _ key ri cnt
  | roundskf _ _ key ri cnt | roundskffin _ _ key ri cnt | invroundskf _ _ key ri cnt
  | invroundskffin _ _ key ri cnt =>
    cases hn; cases hsl; cases hj
    simp only [checkOf, orElse_eq_none, checkEmpty_eq_none, checkIndex_eq_none] at h ⊢
    obtain ⟨-, hfilled, hrange⟩ := h
    exact ⟨checkLanes_one l, fun _ _ => hfilled l hl, fun _ _ => hrange l hl⟩
  | encrypt _ _ key v | decrypt _ _ key v =>
    cases hn; cases hsl; cases hj
    simp only [checkOf, orElse_eq_none, checkEmpty_eq_none, checkVariant_eq_none] at h ⊢
    obtain ⟨-, hfilled, hfits⟩ := h
    exact ⟨checkLanes_one l, fun _ _ => hfilled l hl, fun _ _ => hfits l hl⟩
  | keyexp | keyinv | rkread | capinit | qhwavail | qlanes => cases hn
  | _ => cases hj; exact checkLanes_one l

theorem readyOf_singleLane (h : readyOf i s = true) : readyOf j s = true := by
  cases i with
  | addroundkey | round | finalround | invround | invfinalround | roundkf | finalroundkf | invroundkf
  | invfinalroundkf =>
    cases hn; cases hsl; cases hj
    simp only [readyOf, Bool.and_eq_true] at h ⊢
    exact ⟨lanesReady_one hl h.1, keysReady_one hl h.2⟩
  | keyexp | keyinv | rkread | capinit | qhwavail | qlanes => cases hn
  | _ => cases hn; cases hsl; cases hj; exact lanesReady_one hl h

end SingleLane

/-! ## Single-lane forms in sequence (R155) -/

/-- R352: a command latches before it does anything else. -/
theorem exec_latch (i : Instr) (s : State) : exec i (latch s) = exec i s := by
  simp only [exec_eq, execute, latch_latch]

theorem latch_setStatus (s : State) (v : Word) : latch (s.setStatus v) = (latch s).setStatus v := by
  rw [latch_eq, latch_eq]; rfl

theorem latch_writeSt (s : State) (l : Lane) (v : Block) : latch (s.writeSt l v) = (latch s).writeSt l v := by
  rw [latch_eq, latch_eq]; rfl

theorem effectOf_setStatus (i : Instr) (s : State) (v : Word) :
    effectOf i (s.setStatus v) = (effectOf i s).setStatus v := by
  cases i with
  | rkread dst => cases dst <;> rfl
  | _ => rfl

/-- No command reads STATUS. -/
theorem exec_setStatus (i : Instr) (s : State) (v : Word) : exec i (s.setStatus v) = exec i s := by
  have hcheck : checkOf i (latch (s.setStatus v)) = checkOf i (latch s) := checkOf_congr i fun k => by simp
  have hready : readyOf i (latch (s.setStatus v)) = readyOf i (latch s) := readyOf_congr i (by simp) (by simp) (by simp)
  obtain ⟨c, hc, hs⟩ | ⟨hc, hr, hs⟩ | ⟨hc, hr, hs⟩ := exec_cases i s
  · rw [hs, exec_raises (hcheck.trans hc), latch_setStatus]
    cases c <;> rfl
  · rw [hs, exec_completes (hcheck.trans hc) (hready.trans hr), latch_setStatus, effectOf_setStatus]
    rfl
  · rw [hs, exec_unwritten (hcheck.trans hc) (hready.trans hr)]

/-- A run of commands does not see whether the latch was taken before it, nor STATUS (R352). -/
theorem AllComplete.of_latched {is : List Instr} {s u : State} {p : Path} (hne : is ≠ [])
    (h : AllComplete is (complete p (latch s)) u) : AllComplete is s u := by
  cases is with
  | nil => exact absurd rfl hne
  | cons i is =>
    obtain ⟨w, hw, h⟩ := h
    exact ⟨w, by rw [← hw, complete, exec_setStatus, exec_latch], h⟩

/-- The lanes of `order` written one after the other, lane l with `f l`. -/
def writeLanes (f : Lane → Block) (order : List Lane) (s : State) : State :=
  order.foldl (fun t l => t.writeSt l (f l)) s

theorem writeLanes_eq (f : Lane → Block) (order : List Lane) (s : State) :
    writeLanes f order s = { s with
      st := Quad.ofFn fun l => if l ∈ order then f l else s.st.get l
      wst := Quad.ofFn fun l => decide (l ∈ order) || s.wst.get l } := by
  induction order generalizing s with
  | nil => simp [writeLanes]
  | cons l order ih =>
    refine (ih (s.writeSt l (f l))).trans ?_
    have hst : ∀ m, (if m ∈ order then f m else (s.st.set l (f l)).get m) =
        if m ∈ l :: order then f m else s.st.get m := by
      intro m
      by_cases hm : m = l <;> simp [Quad.get_set, hm]
    have hwst : ∀ m, (decide (m ∈ order) || (s.wst.set l true).get m) =
        (decide (m ∈ l :: order) || s.wst.get m) := by
      intro m
      by_cases hm : m = l <;> simp [Quad.get_set, hm]
    simp only [State.writeSt_st, State.writeSt_wst, hst, hwst]
    rfl

/-- The commit of a datapath command is the writes of its lanes, in any order. -/
theorem writeLanes_eq_commitLanes {n : LaneCount} {sl : Lane} {order : List Lane} (h : order.Perm (lanes n sl))
    (f : Lane → Block) (s : State) : writeLanes f order s = s.commitLanes n sl f := by
  simp [writeLanes_eq, State.commitLanes, h.mem_iff]

theorem lanes_one (l : Lane) : lanes .one l = [l] := by
  revert l; decide

theorem commitLanes_one (l : Lane) (f : Lane → Block) (s : State) : s.commitLanes .one l f = s.writeSt l (f l) :=
  (writeLanes_eq_commitLanes (order := [l]) (by rw [lanes_one]) f s).symm

theorem quad_set_eq_self {α : Type} {q : Quad α} {l : Lane} {v : α} (h : q.get l = v) : q.set l v = q := by
  ext m
  rw [Quad.get_set]
  split
  · next hm => rw [hm, h]
  · rfl

section Sequence

variable {i : Instr} {n : LaneCount} {sl : Lane} (hn : i.laneCount? = some n) (hsl : i.start? = some sl)
include hn hsl

/-- What the single-lane form of lane l does where the command itself would complete. -/
theorem exec_singleLane {l : Lane} {s : State} (hlatch : latch s = s) (hc : checkOf i s = none)
    (hr : readyOf i s = true) (hl : inLanes n sl l = true) :
    ∃ j p, singleLane l i = some j ∧ exec j s = .next (complete p (s.writeSt l (resultOf i s l))) := by
  obtain ⟨j, hj, hone, hstart⟩ := exists_singleLane hn l
  have he := exec_completes (i := j) (s := s) (by rw [hlatch]; exact checkOf_singleLane hn hsl hl hj hc)
    (by rw [hlatch]; exact readyOf_singleLane hn hsl hl hj hr)
  rw [hlatch, effectOf_lanes hone hstart, commitLanes_one, resultOf_singleLane hj] at he
  exact ⟨j, _, hj, he⟩

/-- The forms of the lanes still to do complete and write their lanes: each finds its own lane, the tags and the slots
as the command found them. -/
theorem allComplete_singleLanes {f : Lane → Block} {order : List Lane} (hnodup : order.Nodup) {s : State} (p : Path)
    (hlatch : latch s = s) (hc : checkOf i s = none) (hr : readyOf i s = true)
    (hlanes : ∀ l ∈ order, inLanes n sl l = true) (hf : ∀ l ∈ order, resultOf i s l = f l) :
    ∃ q, AllComplete (order.filterMap fun l => singleLane l i) (complete p s)
      (complete q (writeLanes f order s)) := by
  induction order generalizing s p with
  | nil => exact ⟨p, rfl⟩
  | cons l order ih =>
    obtain ⟨hnot, hnodup⟩ := List.nodup_cons.1 hnodup
    obtain ⟨hl, hlanes⟩ := List.forall_mem_cons.1 hlanes
    obtain ⟨hfl, hf⟩ := List.forall_mem_cons.1 hf
    obtain ⟨j, p', hj, he⟩ := exec_singleLane hn hsl hlatch hc hr hl
    rw [hfl] at he
    have htags : s.wst.set l true = s.wst := quad_set_eq_self (readyOf_lanes hn hsl hr l hl)
    have hresult : ∀ m ∈ order, resultOf i (s.writeSt l (f l)) m = f m := by
      intro m hm
      have hne : m ≠ l := fun hml => hnot (hml ▸ hm)
      rw [← hf m hm]
      exact resultOf_congr (by simp [Quad.get_set_other _ hne]) (fun _ _ _ => rfl) fun _ _ => rfl
    have hready : readyOf i (s.writeSt l (f l)) = readyOf i s := readyOf_congr i htags rfl rfl
    have hcheck : checkOf i (s.writeSt l (f l)) = checkOf i s := checkOf_congr i fun _ => rfl
    have hlatch' : latch (s.writeSt l (f l)) = s.writeSt l (f l) := by rw [latch_writeSt, hlatch]
    obtain ⟨q, hq⟩ := ih hnodup p' hlatch' (hcheck.trans hc) (hready.trans hr) hlanes hresult
    refine ⟨q, ?_⟩
    rw [List.filterMap_cons_some (f := fun l => singleLane l i) hj]
    exact ⟨_, (exec_setStatus j s _).trans he, causeField_complete .., hq⟩

end Sequence

/-- Settles O47: each single-lane form writes its own lane, and the writes in any order are the commit. -/
theorem laneCountEquivalence : Obligations.LaneCountEquivalence := by
  intro i n sl s t order hn hsl he hz hperm
  obtain ⟨hc, hr, rfl⟩ := exec_next_zero he hz
  have hmem : ∀ {l : Lane}, l ∈ order ↔ inLanes n sl l = true := hperm.mem_iff.trans mem_lanes
  have hnodup : order.Nodup := hperm.nodup_iff.2 (List.Nodup.filter _ (by decide))
  obtain ⟨q, hall⟩ :=
    allComplete_singleLanes hn hsl hnodup .sw (latch_latch s) hc hr (fun _ => hmem.1) fun _ _ => rfl
  have hne : order.filterMap (fun l => singleLane l i) ≠ [] := by
    obtain ⟨j, hj, -⟩ := exists_singleLane hn sl
    exact List.ne_nil_of_mem (List.mem_filterMap.2 ⟨sl, hmem.2 (inLanes_start n sl), hj⟩)
  refine ⟨_, hall.of_latched hne, ?_, causeField_complete .., errBit_statusWord .., fatalBit_statusWord ..⟩
  rw [effectOf_lanes hn hsl, writeLanes_eq_commitLanes hperm]
  rfl

end Sys2Proof.Machine
end

section
/-!
The transforms (R180 to R197): the field and the tables, the laws of the transforms, and the six transform commands
that take no key.
-/

namespace Sys2Proof.Machine

/-! ## The field and the tables (R181 to R186)

The tables have no structure but their 256 entries, so what is said of them is checked at every byte. -/

theorem gmul_constants (x : Byte) :
    gmul 1 x = x ∧ gmul 2 x = mul2 x ∧ gmul 3 x = mul3 x ∧ gmul 9 x = mul9 x ∧ gmul 11 x = mul11 x ∧
    gmul 13 x = mul13 x ∧ gmul 14 x = mul14 x := by
  revert x
  decide +kernel

theorem invSbox_sbox : Function.LeftInverse invSbox sbox := by
  unfold Function.LeftInverse
  decide +kernel

theorem sbox_invSbox : Function.RightInverse invSbox sbox := by
  unfold Function.RightInverse Function.LeftInverse
  decide +kernel

/-- The inverse of the affine map A of R185. -/
def affineInverse (b : Byte) : Byte := b.rotateLeft 1 ^^^ b.rotateLeft 3 ^^^ b.rotateLeft 6 ^^^ 0x05

theorem affine_affineInverse (x : Byte) : affine (affineInverse x) = x := by
  revert x
  decide +kernel

/-- The field inverse read off the S-box table: the one evaluation of x^254, which the facts about `gfInverse` share. -/
theorem gfInverse_eq (x : Byte) : gfInverse x = affineInverse (sbox x) := by
  revert x
  decide +kernel

theorem gmul_affineInverse_sbox (x : Byte) : x ≠ 0 → gmul x (affineInverse (sbox x)) = 1 := by
  revert x
  decide +kernel

theorem sbox_ne_and_ne_opposite (x : Byte) : sbox x ≠ x ∧ sbox x ≠ x ^^^ 0xFF := by
  revert x
  decide +kernel

/-- Settles O9: the facts about the inverse follow from `gfInverse_eq`. -/
theorem fieldTables : Obligations.FieldTables := by
  intro x
  obtain ⟨-, h2, h3, h9, h11, h13, h14⟩ := gmul_constants x
  obtain ⟨hfixed, hopposite⟩ := sbox_ne_and_ne_opposite x
  refine ⟨h2.symm, h3.symm, h9.symm, h11.symm, h13.symm, h14.symm, ?_, ?_, ?_, invSbox_sbox x, sbox_invSbox x,
    hfixed, hopposite⟩
  · rw [gfInverse_eq]
    exact gmul_affineInverse_sbox x
  · rw [gfInverse_eq]
    decide
  · rw [gfInverse_eq, affine_affineInverse]

/-! ## Substitution (R184, R186) -/

theorem map_eq_ofFn (f : Byte → Byte) (s : Block) : s.map f = Block.ofFn fun j => f (s.byte j) :=
  Block.ext_byte fun j => by rw [Block.byte_map, Block.byte_ofFn]

theorem map_map_of_leftInverse {f g : Byte → Byte} (h : Function.LeftInverse g f) (s : Block) :
    (s.map f).map g = s :=
  Block.ext_byte fun j => by rw [Block.byte_map, Block.byte_map, h]

/-- A byte function that moves 0 is not linear, and so not on Blocks. -/
theorem not_forall_map_xor {f : Byte → Byte} (h : f 0 ≠ 0) :
    ¬ ∀ s k : Block, (s.xor k).map f = (s.map f).xor (k.map f) := by
  intro hlinear
  have hbyte := congrArg (fun b => b.byte 0) (hlinear Block.zero Block.zero)
  simp only [Block.byte_map, Block.byte_xor, Block.byte_zero, BitVec.xor_self] at hbyte
  exact h hbyte

/-! ## Rotation (R188) -/

theorem byte_permute (t : List (Fin 16)) (s : Block) (j : Fin 16) :
    (permute t s).byte j = s.byte (t.getD j.val 0) := by
  rw [permute, Block.byte_ofFn]

theorem permute_eq_ofFn {t : List (Fin 16)} {f : Fin 16 → Fin 16} (h : ∀ j, t.getD j.val 0 = f j) (s : Block) :
    permute t s = Block.ofFn fun j => s.byte (f j) :=
  Block.ext_byte fun j => by rw [byte_permute, Block.byte_ofFn, h]

theorem permute_map (t : List (Fin 16)) (f : Byte → Byte) (s : Block) : permute t (s.map f) = (permute t s).map f :=
  Block.ext_byte fun j => by simp only [byte_permute, Block.byte_map]

theorem permute_xor (t : List (Fin 16)) (s k : Block) : permute t (s.xor k) = (permute t s).xor (permute t k) :=
  Block.ext_byte fun j => by simp only [byte_permute, Block.byte_xor]

theorem permute_permute_of_inverse {t u : List (Fin 16)} (h : ∀ j : Fin 16, t.getD (u.getD j.val 0).val 0 = j)
    (s : Block) : permute u (permute t s) = s :=
  Block.ext_byte fun j => by rw [byte_permute, byte_permute, h]

/-! ## Mixing (R189)

Both matrices are circulant, so one formula gives every row of a product, with the row numbers modulo 4. -/

theorem byte_mixColumn (a : Column) (r : Lane) :
    (mixColumn a).byte r = mul2 (a.byte r) ^^^ mul3 (a.byte (r + 1)) ^^^ a.byte (r + 2) ^^^ a.byte (r + 3) := by
  fin_cases r <;> simp [mixColumn, Column.byte] <;> ac_rfl

theorem byte_invMixColumn (a : Column) (r : Lane) :
    (invMixColumn a).byte r =
      mul14 (a.byte r) ^^^ mul11 (a.byte (r + 1)) ^^^ mul13 (a.byte (r + 2)) ^^^ mul9 (a.byte (r + 3)) := by
  fin_cases r <;> simp [invMixColumn, Column.byte] <;> ac_rfl

theorem mixColumn_xor (a b : Column) : mixColumn (a.xor b) = (mixColumn a).xor (mixColumn b) := by
  refine Column.ext_byte fun r => ?_
  simp only [byte_mixColumn, Column.byte_xor, mul2_xor, mul3_xor]
  ac_rfl

theorem byte_xor_left_comm (x y z : Byte) : x ^^^ (y ^^^ z) = y ^^^ (x ^^^ z) := by
  ac_rfl

theorem byte_xor_cancel_left (x y : Byte) : x ^^^ (x ^^^ y) = y := by
  rw [← BitVec.xor_assoc, BitVec.xor_self, BitVec.zero_xor]

/-- One row of the square of the mixing matrix, which is the circulant with first row (5, 0, 4, 0). -/
theorem mix_row_mix_row (a b c d : Byte) :
    mul2 (mul2 a ^^^ mul3 b ^^^ c ^^^ d) ^^^ mul3 (mul2 b ^^^ mul3 c ^^^ d ^^^ a) ^^^
      (mul2 c ^^^ mul3 d ^^^ a ^^^ b) ^^^ (mul2 d ^^^ mul3 a ^^^ b ^^^ c) = a ^^^ double (double (a ^^^ c)) := by
  simp only [mul2, mul3, double_xor, BitVec.xor_assoc, BitVec.xor_comm, byte_xor_left_comm, byte_xor_cancel_left]

theorem byte_mixColumn_mixColumn (a : Column) (r : Lane) :
    (mixColumn (mixColumn a)).byte r = a.byte r ^^^ double (double (a.byte r ^^^ a.byte (r + 2))) := by
  simp only [byte_mixColumn, ← mix_row_mix_row (a.byte r) (a.byte (r + 1)) (a.byte (r + 2)) (a.byte (r + 3))]
  fin_cases r <;> rfl

/-- The fourth power of the mixing matrix is the identity. -/
theorem mixColumn_four (a : Column) : mixColumn (mixColumn (mixColumn (mixColumn a))) = a := by
  refine Column.ext_byte fun r => ?_
  have hr : r + 2 + 2 = r := by
    revert r
    decide
  simp only [byte_mixColumn_mixColumn, hr, double_xor, BitVec.xor_assoc, BitVec.xor_comm, byte_xor_left_comm,
    byte_xor_cancel_left, BitVec.xor_self]

theorem invMix_row_eq (a b c d : Byte) :
    mul2 (a ^^^ double (double (a ^^^ c))) ^^^ mul3 (b ^^^ double (double (b ^^^ d))) ^^^
      (c ^^^ double (double (c ^^^ a))) ^^^ (d ^^^ double (double (d ^^^ b))) =
    mul14 a ^^^ mul11 b ^^^ mul13 c ^^^ mul9 d := by
  simp only [mul2, mul3, mul9, mul11, mul13, mul14, double_xor, BitVec.xor_assoc, BitVec.xor_comm,
    byte_xor_left_comm, byte_xor_cancel_left]

/-- So its cube is its inverse. -/
theorem invMixColumn_eq (a : Column) : invMixColumn a = mixColumn (mixColumn (mixColumn a)) := by
  refine Column.ext_byte fun r => ?_
  rw [byte_invMixColumn, byte_mixColumn, ← invMix_row_eq]
  simp only [byte_mixColumn_mixColumn]
  fin_cases r <;> rfl

theorem invMixColumn_xor (a b : Column) : invMixColumn (a.xor b) = (invMixColumn a).xor (invMixColumn b) := by
  simp only [invMixColumn_eq, mixColumn_xor]

theorem mapCols_xor {f : Column → Column} (h : ∀ a b, f (a.xor b) = (f a).xor (f b)) (s k : Block) :
    (s.xor k).mapCols f = (s.mapCols f).xor (k.mapCols f) :=
  Block.ext_col fun c => by simp only [Block.col_mapCols, Block.col_xor, h]

theorem mapCols_mapCols_of_leftInverse {f g : Column → Column} (h : Function.LeftInverse g f) (s : Block) :
    (s.mapCols f).mapCols g = s :=
  Block.ext_col fun c => by rw [Block.col_mapCols, Block.col_mapCols, h]

theorem imix_mix (s : Block) : imix (mix s) = s :=
  mapCols_mapCols_of_leftInverse (fun a => by rw [invMixColumn_eq, mixColumn_four]) s

theorem mix_imix (s : Block) : mix (imix s) = s :=
  mapCols_mapCols_of_leftInverse (fun a => by rw [invMixColumn_eq, mixColumn_four]) s

/-- A column times the circulant matrix with first row (m0, m1, m2, m3), the products by `gmul`. -/
def circulantColumn (m0 m1 m2 m3 : Byte) (a : Column) : Column where
  r0 := gmul m0 a.r0 ^^^ gmul m1 a.r1 ^^^ gmul m2 a.r2 ^^^ gmul m3 a.r3
  r1 := gmul m3 a.r0 ^^^ gmul m0 a.r1 ^^^ gmul m1 a.r2 ^^^ gmul m2 a.r3
  r2 := gmul m2 a.r0 ^^^ gmul m3 a.r1 ^^^ gmul m0 a.r2 ^^^ gmul m1 a.r3
  r3 := gmul m1 a.r0 ^^^ gmul m2 a.r1 ^^^ gmul m3 a.r2 ^^^ gmul m0 a.r3

theorem circulant_eq_mapCols (m0 m1 m2 m3 : Byte) (s : Block) :
    circulant [m0, m1, m2, m3] s = s.mapCols (circulantColumn m0 m1 m2 m3) := rfl

theorem mix_eq_circulant (s : Block) : mix s = circulant [2, 3, 1, 1] s := by
  have hcolumn : mixColumn = circulantColumn 2 3 1 1 := by
    funext a
    simp only [mixColumn, circulantColumn, gmul_constants]
  rw [mix, hcolumn, circulant_eq_mapCols]

theorem imix_eq_circulant (s : Block) : imix s = circulant [14, 11, 13, 9] s := by
  have hcolumn : invMixColumn = circulantColumn 14 11 13 9 := by
    funext a
    simp only [invMixColumn, circulantColumn, gmul_constants]
  rw [imix, hcolumn, circulant_eq_mapCols]

/-! ## The laws (R197) -/

/-- Settles O14: bytes for substitution and rotation, columns for mixing, and the S-box entries at 0. -/
theorem transformLaws : Obligations.TransformLaws := by
  refine ⟨fun s k => ?_, not_forall_map_xor (by decide), not_forall_map_xor (by decide), ?_⟩
  · exact ⟨map_map_of_leftInverse invSbox_sbox s, map_map_of_leftInverse sbox_invSbox s,
      permute_permute_of_inverse (by decide) s, permute_permute_of_inverse (by decide) s, imix_mix s, mix_imix s,
      Block.xor_xor_cancel s k, permute_map _ _ s, permute_map _ _ s, mapCols_xor mixColumn_xor s k,
      mapCols_xor invMixColumn_xor s k, permute_xor _ s k, permute_xor _ s k⟩
  · decide

/-! ## The commands (R190 to R195) -/

/-- What a class T command leaves when its lane start is aligned and its lanes are written (R153, R158, R159). -/
theorem exec_transform {i : Instr} {n : LaneCount} {sl : Lane} {s : State} {result : Lane → Block}
    (hn : i.laneCount? = some n) (hsl : i.start? = some sl) (hcls : i.mnemonic.cls = .t)
    (ha : sl.val % n.count = 0) (hl : LanesWritten n sl s) (hresult : ∀ l, resultOf i (latch s) l = result l) :
    ∃ t, exec i s = .next t ∧ LanesCompleted i n sl result s t := by
  have hready : lanesReady n sl (latch s) = true := lanesReady_iff.2 (by simpa [LanesWritten] using hl)
  obtain rfl : resultOf i (latch s) = result := funext hresult
  cases i with
  | subbytes | invsubbytes | shiftrows | invshiftrows | mixcolumns | invmixcolumns | roundnk | finalroundnk
  | invroundnk | invfinalroundnk =>
    cases hn
    cases hsl
    exact exec_lanesCompleted rfl rfl (checkLanes_eq_none.2 ha) hready
  | _ => cases hcls

/-- Settles O10: a byte map of a Block, read byte by byte. -/
theorem substitutionCommands : Obligations.SubstitutionCommands := fun _ _ _ ha hl =>
  ⟨exec_transform rfl rfl rfl ha hl fun _ => by rw [resultOf, latch_st, sub, map_eq_ofFn],
    exec_transform rfl rfl rfl ha hl fun _ => by rw [resultOf, latch_st, isub, map_eq_ofFn]⟩

/-- Settles O11: each table of R188 is its rotation formula, byte by byte. -/
theorem rowCommands : Obligations.RowCommands := fun _ _ _ ha hl =>
  ⟨exec_transform rfl rfl rfl ha hl fun _ => by
      rw [resultOf, latch_st, shr]
      exact permute_eq_ofFn (by decide) _,
    exec_transform rfl rfl rfl ha hl fun _ => by
      rw [resultOf, latch_st, ishr]
      exact permute_eq_ofFn (by decide) _⟩

/-- Settles O12: the multipliers of the two matrices are the field products (`gmul_constants`). -/
theorem columnCommands : Obligations.ColumnCommands := fun _ _ _ ha hl =>
  ⟨exec_transform rfl rfl rfl ha hl fun _ => by rw [resultOf, latch_st, mix_eq_circulant],
    exec_transform rfl rfl rfl ha hl fun _ => by rw [resultOf, latch_st, imix_eq_circulant]⟩

end Sys2Proof.Machine
end

section
/-!
The rounds (R230 to R251): the twelve single-round commands, all as one over the axes of R231, what the three
composition orders have to do with each other (R236), and which round undoes which (R237).
-/

namespace Sys2Proof.Machine

/-! ## The twelve commands as one (R231, R240 to R251) -/

section RoundInstr

variable (ord : Ord) (inv fin : Bool) (n : LaneCount) (sl : Lane) (key : KeySel)

@[simp] theorem laneCount_roundInstr : (roundInstr ord inv fin n sl key).laneCount? = some n := by
  cases ord <;> cases inv <;> cases fin <;> rfl

@[simp] theorem start_roundInstr : (roundInstr ord inv fin n sl key).start? = some sl := by
  cases ord <;> cases inv <;> cases fin <;> rfl

theorem checkOf_roundInstr (t : State) : checkOf (roundInstr ord inv fin n sl key) t = checkLanes n sl := by
  cases ord <;> cases inv <;> cases fin <;> rfl

theorem readyOf_roundInstr (t : State) : readyOf (roundInstr ord inv fin n sl key) t =
    (lanesReady n sl t && (decide (ord = .nk) || keysReady n sl key t)) := by
  cases ord with
  | std | kf => cases inv <;> cases fin <;> rfl
  | nk => cases inv <;> cases fin <;> exact (Bool.and_true _).symm

/-- The no-key rounds are here too, since `rnd` ignores their key (R231). -/
theorem resultOf_roundInstr (t : State) (l : Lane) :
    resultOf (roundInstr ord inv fin n sl key) t l = rnd ord inv fin (t.st.get l) (keyReg key t l) := by
  cases ord <;> cases inv <;> cases fin <;> rfl

variable {n sl key} {s : State}

/-- Every single-round command completes where its lanes and, unless it is a no-key round, its key registers are
written (R154, R158, R159). -/
theorem exec_roundInstr (ha : sl.val % n.count = 0) (hl : LanesWritten n sl s)
    (hk : ord ≠ .nk → KeysWritten n sl key s) :
    ∃ t, exec (roundInstr ord inv fin n sl key) s = .next t ∧
      LanesCompleted (roundInstr ord inv fin n sl key) n sl
        (fun l => rnd ord inv fin (s.st.get l) (s.kr.get (key.index l))) s t := by
  have hcheck : checkOf (roundInstr ord inv fin n sl key) (latch s) = none := by
    rw [checkOf_roundInstr, checkLanes_eq_none.2 ha]
  have hlanes : lanesReady n sl (latch s) = true := lanesReady_iff.2 (by simpa [LanesWritten] using hl)
  have hkeys : ord ≠ .nk → keysReady n sl key (latch s) = true := fun hord =>
    keysReady_iff.2 (by simpa [KeysWritten] using hk hord)
  have hready : readyOf (roundInstr ord inv fin n sl key) (latch s) = true := by
    simpa [readyOf_roundInstr, hlanes, or_iff_not_imp_left] using hkeys
  have hresult : resultOf (roundInstr ord inv fin n sl key) (latch s) =
      fun l => rnd ord inv fin (s.st.get l) (s.kr.get (key.index l)) := by
    funext l
    rw [resultOf_roundInstr, keyReg, latch_st, latch_kr]
  exact hresult ▸ exec_lanesCompleted (laneCount_roundInstr ..) (start_roundInstr ..) hcheck hready

end RoundInstr

/-- Settles O15: the rounds of the standard order. -/
theorem standardRounds : Obligations.StandardRounds := fun _ _ _ _ ha hl hk =>
  ⟨exec_roundInstr .std false false ha hl fun _ => hk, exec_roundInstr .std false true ha hl fun _ => hk,
    exec_roundInstr .std true false ha hl fun _ => hk, exec_roundInstr .std true true ha hl fun _ => hk⟩

/-- Settles O16: the rounds of the key-first order. -/
theorem keyFirstRounds : Obligations.KeyFirstRounds := fun _ _ _ _ ha hl hk =>
  ⟨exec_roundInstr .kf false false ha hl fun _ => hk, exec_roundInstr .kf false true ha hl fun _ => hk,
    exec_roundInstr .kf true false ha hl fun _ => hk, exec_roundInstr .kf true true ha hl fun _ => hk⟩

/-- Settles O17: the rounds of the no-key order, whose key selection is not in the command. -/
theorem noKeyRounds : Obligations.NoKeyRounds := fun _ _ _ ha hl =>
  have hround (inv fin : Bool) := exec_roundInstr .nk inv fin (key := .perLane) ha hl (absurd rfl)
  ⟨hround false false, hround false true, hround true false, hround true true⟩

/-! ## The composition orders (R236) -/

theorem rnd_std_eq (inv fin : Bool) (s k : Block) : rnd .std inv fin s k = (rnd .nk inv fin s k).xor k := by
  cases inv <;> cases fin <;> rfl

/-- A no-key round ignores its key (R231), so it may stand with any. -/
theorem rnd_kf_eq (inv fin : Bool) (s k k' : Block) : rnd .kf inv fin s k = rnd .nk inv fin (s.xor k) k' := by
  cases inv <;> cases fin <;> rfl

/-- A key-first round and a key after it are a key and the standard round after it. -/
theorem rnd_kf_xor (inv fin : Bool) (s k k' : Block) :
    (rnd .kf inv fin s k).xor k' = rnd .std inv fin (s.xor k) k' := by
  rw [rnd_kf_eq inv fin s k k', rnd_std_eq]

/-- So a chain of key-first rounds, with its last key added, is the standard chain from the state with the first key. -/
theorem roundsSeq_kf_xor (inv : Bool) (k : Nat → Block) (s : Block) (m : Nat) :
    (roundsSeq (fun j x => rnd .kf inv false x (k j)) s m).xor (k m) =
      roundsSeq (fun j x => rnd .std inv false x (k (j + 1))) (s.xor (k 0)) m := by
  induction m with
  | zero => rfl
  | succ m ih => rw [roundsSeq, rnd_kf_xor, ih, roundsSeq]

/-- Settles O18: the final round ends the chain as each round before it continues the chain. -/
theorem orderLaws : Obligations.OrderLaws := by
  refine ⟨fun inv fin s k => ⟨rnd_std_eq inv fin s k, rnd_kf_eq inv fin s k k⟩, fun nr k s _ => ?_⟩
  exact ⟨by rw [rnd_kf_xor, roundsSeq_kf_xor], by rw [rnd_kf_xor, roundsSeq_kf_xor]⟩

/-! ## Inverse rounds (R237) -/

theorem isub_sub (s : Block) : isub (sub s) = s := map_map_of_leftInverse invSbox_sbox s

theorem sub_isub (s : Block) : sub (isub s) = s := map_map_of_leftInverse sbox_invSbox s

theorem ishr_shr (s : Block) : ishr (shr s) = s := permute_permute_of_inverse (by decide) s

theorem shr_ishr (s : Block) : shr (ishr s) = s := permute_permute_of_inverse (by decide) s

theorem imix_xor (s k : Block) : imix (s.xor k) = (imix s).xor (imix k) := mapCols_xor invMixColumn_xor s k

/-- A no-key final round is undone by that of the other direction, which undoes its two transforms in reverse order. -/
theorem rnd_nk_final_inverse (inv : Bool) (s k k' : Block) :
    rnd .nk (!inv) true (rnd .nk inv true s k) k' = s := by
  cases inv with
  | false => exact (congrArg isub (ishr_shr (sub s))).trans (isub_sub s)
  | true => exact (congrArg shr (sub_isub (ishr s))).trans (shr_ishr s)

/-- The key-first final round takes off first the key that the standard one of the other direction put on last. -/
theorem rnd_kf_std_final_inverse (inv : Bool) (s k : Block) : rnd .kf (!inv) true (rnd .std inv true s k) k = s := by
  rw [rnd_std_eq, rnd_kf_eq _ _ _ _ k, Block.xor_xor_cancel, rnd_nk_final_inverse]

/-- Mixing is linear, so an inverse mix makes of ROUND a FINALROUND with the key mixed too. -/
theorem imix_rnd_std (s k : Block) : imix (rnd .std false false s k) = rnd .std false true s (imix k) := by
  rw [rnd, rnd, imix_xor, imix_mix]

theorem imix_rnd_nk (s k : Block) : imix (rnd .nk false false s k) = rnd .nk false true s k := imix_mix _

/-- Without a key between, an inverse round does not undo a forward one: the mixing is not undone before the
substitution. -/
theorem rnd_nk_not_inverse : rnd .nk true false (rnd .nk false false (Block.ofHex 1) Block.zero) Block.zero ≠
    Block.ofHex 1 := by
  decide

/-- With the zero key, the three orders of a round are one. -/
theorem rnd_zero (ord : Ord) (inv fin : Bool) (s : Block) :
    rnd ord inv fin s Block.zero = rnd .nk inv fin s Block.zero := by
  cases ord with
  | std => rw [rnd_std_eq, Block.xor_zero]
  | kf => rw [rnd_kf_eq inv fin s Block.zero Block.zero, Block.xor_zero]
  | nk => rfl

/-- Neither INVROUNDKF nor INVROUND undoes ROUND: with the zero key both fail on the Block whose last byte is 1. -/
theorem rnd_std_not_inverse (ord : Ord) : ¬ ∀ s k : Block, rnd ord true false (rnd .std false false s k) k = s := by
  intro h
  refine rnd_nk_not_inverse ?_
  rw [← rnd_zero ord, ← rnd_zero .std false]
  exact h (Block.ofHex 1) Block.zero

/-- Settles O19: the final rounds undo each other, and an inverse mix makes a round a final one. -/
theorem roundInverses : Obligations.RoundInverses := by
  refine ⟨fun s k => ⟨rnd_kf_std_final_inverse false s k, rnd_kf_std_final_inverse true s k,
    rnd_nk_final_inverse false s k k, ?_, ?_⟩, rnd_std_not_inverse .kf, rnd_std_not_inverse .std⟩
  · rw [imix_rnd_std]
    exact rnd_kf_std_final_inverse false s (imix k)
  · rw [imix_rnd_nk]
    exact rnd_nk_final_inverse false s k k

end Sys2Proof.Machine
end

section
/-!
The key schedule (R270 to R283): the expansion of a key, its first round keys, the inverse schedule, and the commands
KEYEXP, KEYINV and RKREAD.
-/

namespace Sys2Proof.Machine

/-! ## Key lengths (R270, R275) -/

theorem roundsOfLength_eq_some_iff {l nr : Nat} :
    roundsOfLength l = some nr ↔ (l, nr) ∈ [(16, 10), (24, 12), (32, 14)] := by
  simp only [roundsOfLength]
  split_ifs <;> simp_all [eq_comm]

theorem isSome_roundsOfLength_iff {l : Nat} : (roundsOfLength l).isSome = true ↔ l ∈ [16, 24, 32] := by
  simp [Option.isSome_iff_exists, roundsOfLength_eq_some_iff, exists_or]

/-! ## Round keys from words (R273, last loop) -/

/-- Round key j of the words w: word 4j first. -/
def roundKeyOf (w : Nat → Column) (j : Nat) : Block := ⟨w (4 * j), w (4 * j + 1), w (4 * j + 2), w (4 * j + 3)⟩

@[simp] theorem col_roundKeyOf (w : Nat → Column) (j : Nat) (c : Lane) :
    (roundKeyOf w j).col c = w (4 * j + c.val) := by
  fin_cases c <;> rfl

/-- The keys of a slot that lists `f 0` to `f n`. -/
theorem key_map_range {r n j : Nat} {f : Nat → Block} (h : j ≤ n) :
    Slot.key ⟨r, (List.range (n + 1)).map f⟩ j = f j := by
  have hj : j < n + 1 := by omega
  simp [Slot.key, List.getD, hj]

/-! ## The words of an expansion (R273) -/

/-- What R273 makes of the word before word i, to be XORed into the word nk before. -/
def scheduleCore (nk i : Nat) (prev : Column) : Column :=
  if i % nk = 0 then (subWord (rotWord prev)).xor (rcon (i / nk))
  else if nk = 8 ∧ i % nk = 4 then subWord prev
  else prev

theorem nextWord_eq (nk : Nat) (w : List Column) :
    nextWord nk w =
      (w.getD (w.length - nk) default).xor (scheduleCore nk w.length (w.getD (w.length - 1) default)) := rfl

theorem extendWords_getD_of_lt {nk i : Nat} (m : Nat) {w : List Column} (h : i < w.length) :
    (extendWords nk m w).getD i default = w.getD i default := by
  induction m generalizing w with
  | zero => rfl
  | succ m ih =>
    calc (extendWords nk m (w ++ [nextWord nk w])).getD i default
        = (w ++ [nextWord nk w]).getD i default := ih (by rw [List.length_append]; omega)
      _ = w.getD i default := List.getD_append _ _ _ _ h

/-- The words already there stay, so each new word is made from the words of the finished list. -/
theorem extendWords_getD_of_le {nk i m : Nat} {w : List Column} (hnk : 0 < nk) (hlen : nk ≤ w.length)
    (hle : w.length ≤ i) (hlt : i < w.length + m) :
    (extendWords nk m w).getD i default = ((extendWords nk m w).getD (i - nk) default).xor
      (scheduleCore nk i ((extendWords nk m w).getD (i - 1) default)) := by
  induction m generalizing w with
  | zero => omega
  | succ m ih =>
    have hlen' : (w ++ [nextWord nk w]).length = w.length + 1 := by simp
    obtain rfl | hne := hle.eq_or_lt
    · have hold {j : Nat} (hj : j < w.length) : (extendWords nk (m + 1) w).getD j default = w.getD j default :=
        extendWords_getD_of_lt (m + 1) hj
      have hnew : (extendWords nk (m + 1) w).getD w.length default = nextWord nk w := by
        rw [extendWords, extendWords_getD_of_lt m (by omega), List.getD_append_right _ _ _ _ le_rfl, Nat.sub_self]
        rfl
      rw [hnew, nextWord_eq, hold (by omega), hold (by omega)]
    · exact ih (by omega) (by omega) (by omega)

@[simp] theorem length_keyWords (key : List Byte) : (keyWords key).length = key.length / 4 := by
  simp [keyWords]

theorem byte_keyWords {key : List Byte} {i : Nat} (h : i < key.length / 4) (r : Lane) :
    ((keyWords key).getD i default).byte r = key.getD (4 * i + r.val) 0 := by
  rw [List.getD_eq_getElem _ _ (by simpa using h)]
  simp only [keyWords, List.getElem_map, List.getElem_range]
  fin_cases r <;> rfl

/-- Word i of the expansion of a key to nr rounds. -/
def expandedWord (nr : Nat) (key : List Byte) (i : Nat) : Column :=
  (extendWords (key.length / 4) (4 * (nr + 1) - key.length / 4) (keyWords key)).getD i default

theorem expand_eq (nr : Nat) (key : List Byte) :
    expand nr key = ⟨nr, (List.range (nr + 1)).map (roundKeyOf (expandedWord nr key))⟩ := rfl

/-- R273, first loop. -/
theorem byte_expandedWord {nr i : Nat} {key : List Byte} (h : i < key.length / 4) (r : Lane) :
    (expandedWord nr key i).byte r = key.getD (4 * i + r.val) 0 := by
  rw [expandedWord, extendWords_getD_of_lt _ (by simpa using h), byte_keyWords h]

/-- R273, second loop. -/
theorem expandedWord_eq_xor {nr i : Nat} {key : List Byte} (hkey : 4 ≤ key.length) (hle : key.length / 4 ≤ i)
    (hlt : i < 4 * (nr + 1)) :
    expandedWord nr key i = (expandedWord nr key (i - key.length / 4)).xor
      (scheduleCore (key.length / 4) i (expandedWord nr key (i - 1))) := by
  have hlen := length_keyWords key
  exact extendWords_getD_of_le (by omega) (by omega) (by omega) (by omega)

/-! ## The first round keys (R274) -/

/-- The bytes of the key stand in order in the first round keys. -/
theorem byte_key_expand {nr j : Nat} {key : List Byte} (hj : j ≤ nr) (b : Fin 16)
    (h : 4 * j + b.val / 4 < key.length / 4) : ((expand nr key).key j).byte b = key.getD (16 * j + b.val) 0 := by
  rw [expand_eq, key_map_range hj, Block.byte, col_roundKeyOf, byte_expandedWord h]
  congr 1
  change 4 * (4 * j + b.val / 4) + b.val % 4 = 16 * j + b.val
  omega

/-- Settles O24: a key of 16, 24 or 32 bytes is a whole number of words, at least four of them. -/
theorem firstRoundKeys : Obligations.FirstRoundKeys := by
  intro key nr hlen
  have hsize : 16 ≤ key.length ∧ 4 ∣ key.length ∧ 1 ≤ nr := by
    simp only [List.mem_cons, Prod.mk.injEq, List.not_mem_nil, or_false] at hlen
    omega
  obtain ⟨hlong, hwords, hnr⟩ := hsize
  refine ⟨rfl, by simp [expand_eq], fun j => ?_, fun j hj => byte_key_expand hnr j (by omega)⟩
  rw [byte_key_expand (Nat.zero_le _) j (by omega), Nat.mul_zero, Nat.zero_add]

/-! ## The inverse schedule (R276, R277) -/

@[simp] theorem rounds_invSchedule (q : Slot) : (invSchedule q).rounds = q.rounds := rfl

@[simp] theorem length_rk_invSchedule (q : Slot) : (invSchedule q).rk.length = q.rounds + 1 := by
  simp [invSchedule]

theorem key_invSchedule_zero (q : Slot) : (invSchedule q).key 0 = q.key q.rounds := by
  rw [invSchedule, key_map_range (Nat.zero_le _), if_pos rfl]

theorem key_invSchedule_rounds {q : Slot} (h : q.rounds ≠ 0) : (invSchedule q).key q.rounds = q.key 0 := by
  rw [invSchedule, key_map_range le_rfl, if_neg h, if_pos rfl]

theorem key_invSchedule_interior {q : Slot} {j : Nat} (hpos : 1 ≤ j) (hlt : j < q.rounds) :
    (invSchedule q).key j = imix (q.key (q.rounds - j)) := by
  rw [invSchedule, key_map_range hlt.le, if_neg (by omega), if_neg (by omega)]

/-- Settles O25: reversing twice is the identity on indices, so only the mixing of the interior keys is left. -/
theorem inverseScheduleLaws : Obligations.InverseScheduleLaws := by
  intro q hq
  refine ⟨rfl, key_invSchedule_zero q, key_invSchedule_rounds hq, ?_, ?_, fun j hpos hlt => ?_⟩
  · rw [key_invSchedule_zero, rounds_invSchedule, key_invSchedule_rounds hq]
  · rw [← rounds_invSchedule, key_invSchedule_rounds (q := invSchedule q) hq, key_invSchedule_zero,
      rounds_invSchedule]
  · rw [key_invSchedule_interior (q := invSchedule q) hpos hlt, rounds_invSchedule,
      key_invSchedule_interior (by omega) (by omega), Nat.sub_sub_self hlt.le]

/-! ## KEYEXP (R280) -/

theorem length_keyBytes {l : Nat} (h : l ≤ 32) (s : State) : (keyBytes l s).length = l := by
  simp [keyBytes, h]

theorem getD_keyBytes {l j : Nat} (hl : l ≤ 32) (hj : j < l) (s : State) :
    (keyBytes l s).getD j 0 = s.keyin[Fin.ofNat 32 j] := by
  have hmod : j % 32 = j := Nat.mod_eq_of_lt (by omega)
  rw [List.getD_eq_getElem _ _ (by rwa [length_keyBytes hl])]
  simp [keyBytes, hmod]

theorem checkOf_keyexp_eq_none (k : Lane) {l : Nat} (t : State) (h : l ∈ [16, 24, 32]) :
    checkOf (.keyexp k l) t = none := if_pos (isSome_roundsOfLength_iff.2 h)

theorem checkOf_keyexp_eq_some (k : Lane) {l : Nat} (t : State) (h : l ∉ [16, 24, 32]) :
    checkOf (.keyexp k l) t = some .invalidKeyLength := if_neg (isSome_roundsOfLength_iff.not.2 h)

theorem effectOf_keyexp (k : Lane) {l nr : Nat} (s : State) (h : roundsOfLength l = some nr) :
    effectOf (.keyexp k l) (latch s) = (latch s).writeSlot k (expand nr (keyBytes l s)) := by
  have heffect : effectOf (.keyexp k l) (latch s) =
      (latch s).writeSlot k (expand ((roundsOfLength l).getD 0) (keyBytes l (latch s))) := rfl
  rw [heffect, h, Option.getD_some, keyBytes, keyBytes, latch_keyin]

/-- Settles O20: w is the words of the expansion of the key bytes. -/
theorem keyexpCommand : Obligations.KeyexpCommand := by
  intro k l nr s hl hwritten
  have hrounds : roundsOfLength l = some nr := roundsOfLength_eq_some_iff.2 hl
  have hvalid : l ∈ [16, 24, 32] := isSome_roundsOfLength_iff.1 (by rw [hrounds]; rfl)
  have hsize : 4 ≤ l ∧ l ≤ 32 := by
    simp only [List.mem_cons, List.not_mem_nil, or_false] at hvalid
    omega
  obtain ⟨hpos, hfits⟩ := hsize
  have hlen : (keyBytes l s).length = l := length_keyBytes hfits s
  have hready : readyOf (.keyexp k l) (latch s) = true := keyBytesReady_iff.2 (by simpa using hwritten)
  refine ⟨_, expandedWord nr (keyBytes l s), exec_completes (checkOf_keyexp_eq_none k _ hvalid) hready,
    fun i hi r => ?_, fun i hle hlt => ?_, slotCompleted (effectOf_keyexp k s hrounds)⟩
  · rw [byte_expandedWord (by rwa [hlen]), getD_keyBytes hfits (by omega)]
  · have hword := expandedWord_eq_xor (key := keyBytes l s) (by rwa [hlen]) (by rwa [hlen]) hlt
    rwa [hlen] at hword

theorem raise_invalidKeyLength_latch (cw : Word) (s : State) :
    raise .invalidKeyLength cw (latch s) = { s with caps := latchedCaps s, status := 0x00000101 } := by
  rw [latch_eq]
  rfl

/-- Settles O21: the length is checked before the key bytes are looked at. -/
theorem keyexpStops : Obligations.KeyexpStops := by
  refine ⟨fun k l s hl => ?_, fun k l s j hl hj hunwritten => ?_⟩
  · rw [exec_raises (checkOf_keyexp_eq_some k _ hl), raise_invalidKeyLength_latch]
  · exact exec_unwritten (checkOf_keyexp_eq_none k _ hl)
      ((readyOf_eq_false _ s).2 (.inr ⟨k, l, rfl, j, hj, hunwritten⟩))

/-! ## KEYINV (R282) -/

/-- Settles O22: the slot takes the inverse schedule of what the source held before, so K may be SS. -/
theorem keyinvCommand : Obligations.KeyinvCommand := by
  intro k ss s
  refine ⟨fun hempty => ?_, fun hfilled => ?_⟩
  · have hcheck : checkOf (.keyinv k ss) (latch s) = some .scheduleEmpty := if_pos (by rwa [latch_ks])
    exact ⟨_, exec_raises hcheck, raised_raise ..⟩
  · have hcheck : checkOf (.keyinv k ss) (latch s) = none := if_neg (by rwa [latch_ks])
    have heffect : effectOf (.keyinv k ss) (latch s) = (latch s).writeSlot k (invSchedule (s.ks.get ss)) := by
      rw [← latch_ks s]
      rfl
    exact ⟨_, _, exec_completes hcheck rfl, slotCompleted heffect, rfl, length_rk_invSchedule _,
      key_invSchedule_zero _, key_invSchedule_rounds hfilled, fun _ hpos hlt => key_invSchedule_interior hpos hlt⟩

/-! ## RKREAD (R283) -/

theorem effectOf_rkread_kr (dl k : Lane) (ri : Nat) (t : State) :
    effectOf (.rkread .kr dl k ri) t = t.writeKr dl ((t.ks.get k).key ri) := rfl

theorem effectOf_rkread_st (dl k : Lane) (ri : Nat) (t : State) :
    effectOf (.rkread .st dl k ri) t = t.writeSt dl ((t.ks.get k).key ri) := rfl

/-- Settles O23: a fault is the first check that fails, and the result is one written lane of the file that D names. -/
theorem rkreadCommand : Obligations.RkreadCommand := by
  intro dst dl k ri s
  refine ⟨fun hempty => ?_, fun hfilled hout => ?_, fun hfilled hin => ?_⟩
  · have hcheck : checkOf (.rkread dst dl k ri) (latch s) = some .scheduleEmpty := if_pos (by rwa [latch_ks])
    exact ⟨_, exec_raises hcheck, raised_raise ..⟩
  · have hcheck : checkOf (.rkread dst dl k ri) (latch s) = some .roundIndexOutOfRange := by
      simp [checkOf, hfilled, hout]
    exact ⟨_, exec_raises hcheck, raised_raise ..⟩
  · have hcheck : checkOf (.rkread dst dl k ri) (latch s) = none := by
      simp [checkOf, hfilled, hin]
    refine ⟨_, exec_completes hcheck rfl, completed_complete _ s, ?_⟩
    cases dst with
    | kr => simp [effectOf_rkread_kr, Quad.get_set]
    | st => simp [effectOf_rkread_st, Quad.get_set]

end Sys2Proof.Machine
end

section
/-!
The batched rounds and the whole ciphers (R310 to R333). A command of these classes reads its lanes and the slots and
nothing else, so completion and frame are said once for all of them; a list of commands that takes each lane through a
function is composed from its commands.
-/

namespace Sys2Proof.Machine

/-! ## Chains of rounds (R311, R330, R331) -/

theorem foldl_range_eq_roundsSeq (round : Nat → Block → Block) (s : Block) (m : Nat) :
    (List.range m).foldl (fun x j => round j x) s = roundsSeq round s m := by
  induction m with
  | zero => rfl
  | succ m ih => rw [List.range_succ, List.foldl_append, ih]; rfl

theorem roundsSeq_congr {f g : Nat → Block → Block} {s : Block} {m : Nat} (h : ∀ j < m, ∀ x, f j x = g j x) :
    roundsSeq f s m = roundsSeq g s m := by
  induction m with
  | zero => rfl
  | succ m ih => rw [roundsSeq, roundsSeq, ih fun j hj => h j (by omega), h m (by omega)]

theorem batch_eq_roundsSeq (ord : Ord) (inv fin : Bool) (cnt : Nat) (s : Block) (k : Nat → Block) :
    batch ord inv fin cnt s k = roundsSeq (fun j x => rnd ord inv (fin && j + 1 == cnt) x (k j)) s cnt :=
  foldl_range_eq_roundsSeq (fun j x => rnd ord inv (fin && j + 1 == cnt) x (k j)) s cnt

/-- In a FIN command the last round alone is final. -/
theorem rnd_last_final (ord : Ord) (inv : Bool) (j cnt : Nat) (x k : Block) :
    rnd ord inv (true && j + 1 == cnt) x k = if j + 1 = cnt then rnd ord inv true x k else rnd ord inv false x k := by
  split
  · next h => simp [h]
  · next h => simp [beq_false_of_ne h]

/-- A standard round is a no-key round with the key after it, so a final one differs before the key. -/
theorem rnd_std_last_final (inv : Bool) (j cnt : Nat) (x k : Block) :
    rnd .std inv (true && j + 1 == cnt) x k =
      (if j + 1 = cnt then rnd .nk inv true x k else rnd .nk inv false x k).xor k := by
  rw [rnd_std_eq, rnd_last_final]

theorem rnd_nk_congr (inv fin : Bool) (s k k' : Block) : rnd .nk inv fin s k = rnd .nk inv fin s k' := by
  cases inv <;> cases fin <;> rfl

/-- R231: a no-key chain is the same whatever the keys are. -/
theorem batch_nk_congr (inv fin : Bool) (cnt : Nat) (s : Block) (k k' : Nat → Block) :
    batch .nk inv fin cnt s k = batch .nk inv fin cnt s k' := by
  rw [batch_eq_roundsSeq, batch_eq_roundsSeq]
  exact roundsSeq_congr fun j _ x => rnd_nk_congr ..

theorem batch_final (ord : Ord) (inv : Bool) (m : Nat) (s : Block) (k : Nat → Block) :
    batch ord inv true (m + 1) s k =
      rnd ord inv true (roundsSeq (fun j x => rnd ord inv false x (k j)) s m) (k m) := by
  have hinit : roundsSeq (fun j x => rnd ord inv (true && j + 1 == m + 1) x (k j)) s m =
      roundsSeq (fun j x => rnd ord inv false x (k j)) s m :=
    roundsSeq_congr fun j hj x => by rw [rnd_last_final, if_neg (by omega)]
  rw [batch_eq_roundsSeq, roundsSeq, hinit, rnd_last_final, if_pos rfl]

/-! ## The whole cipher and its inverse as one (R330, R331) -/

/-- `m` of the rounds between the first key addition and the final round. -/
def middleRounds (inv : Bool) (k : Nat → Block) (s : Block) (m : Nat) : Block :=
  roundsSeq (fun j x => rnd .std inv false x (k (j + 1))) s m

theorem middleRounds_succ (inv : Bool) (k : Nat → Block) (s : Block) (m : Nat) :
    middleRounds inv k s (m + 1) = rnd .std inv false (middleRounds inv k s m) (k (m + 1)) := rfl

/-- The cipher of R330 (`inv` false) and the equivalent inverse cipher of R331 (`inv` true). -/
def cipherBlock (inv : Bool) (nr : Nat) (k : Nat → Block) (s : Block) : Block :=
  rnd .std inv true (middleRounds inv k (s.xor (k 0)) (nr - 1)) (k nr)

theorem encryptBlock_eq (nr : Nat) (k : Nat → Block) (s : Block) : encryptBlock nr k s = cipherBlock false nr k s :=
  congrArg (rnd .std false true · (k nr)) (foldl_range_eq_roundsSeq ..)

theorem decryptBlock_eq (nr : Nat) (k : Nat → Block) (s : Block) : decryptBlock nr k s = cipherBlock true nr k s :=
  congrArg (rnd .std true true · (k nr)) (foldl_range_eq_roundsSeq ..)

/-- R333: the cipher is a key addition and a batched FIN command from index 1. -/
theorem batch_eq_cipherBlock (inv : Bool) {nr : Nat} (hnr : nr ≠ 0) (k : Nat → Block) (s : Block) :
    batch .std inv true nr (s.xor (k 0)) (fun j => k (1 + j)) = cipherBlock inv nr k s := by
  obtain ⟨m, rfl⟩ := Nat.exists_eq_succ_of_ne_zero hnr
  simp only [batch_final, cipherBlock, middleRounds, Nat.add_comm 1, Nat.succ_eq_add_one, Nat.add_sub_cancel]

/-- An inverse round under the mixed key undoes one round, but for the final round around it: the step of the
equivalent inverse cipher. -/
theorem invround_finalround_round (s k k' : Block) :
    rnd .std true false (rnd .nk false true (rnd .std false false s k) k') (imix k) = rnd .nk false true s k' := by
  have hundo : isub (ishr (rnd .nk false true (rnd .std false false s k) k')) = rnd .std false false s k :=
    rnd_nk_final_inverse false _ k' k'
  calc rnd .std true false (rnd .nk false true (rnd .std false false s k) k') (imix k)
      = (imix (rnd .std false false s k)).xor (imix k) := congrArg (fun x => (imix x).xor (imix k)) hundo
    _ = imix (rnd .nk false false s k') := by rw [← imix_xor, rnd_std_eq, Block.xor_xor_cancel, rnd_nk_congr]
    _ = rnd .nk false true s k' := imix_rnd_nk s k'

/-- After i rounds the inverse cipher stands one final round past where the cipher stood with i rounds to go. -/
theorem middleRounds_invSchedule {q : Slot} {i r : Nat} (h : i + r + 1 = q.rounds) (s k' : Block) :
    middleRounds true (invSchedule q).key (rnd .nk false true (middleRounds false q.key s (q.rounds - 1)) k') i =
      rnd .nk false true (middleRounds false q.key s r) k' := by
  induction i generalizing r with
  | zero =>
    rw [← h, Nat.zero_add, Nat.add_sub_cancel]
    rfl
  | succ i ih =>
    have hkey : (invSchedule q).key (i + 1) = imix (q.key (r + 1)) := by
      rw [key_invSchedule_interior (by omega) (by omega), ← h]
      congr 2
      omega
    rw [middleRounds_succ, ih (r := r + 1) (by omega), hkey, middleRounds_succ, invround_finalround_round]

/-- R332 on Blocks: the equivalent inverse cipher under the inverse schedule undoes the cipher. -/
theorem cipherBlock_inverse {q : Slot} (hq : q.rounds ≠ 0) (s : Block) :
    cipherBlock true q.rounds (invSchedule q).key (cipherBlock false q.rounds q.key s) = s := by
  have hmiddle := middleRounds_invSchedule (q := q) (i := q.rounds - 1) (r := 0) (by omega) (s.xor (q.key 0))
  rw [cipherBlock, cipherBlock, key_invSchedule_zero, key_invSchedule_rounds hq, rnd_std_eq false,
    Block.xor_xor_cancel, hmiddle, rnd_std_eq]
  exact (congrArg (Block.xor · (q.key 0)) (rnd_nk_final_inverse false _ _ _)).trans (Block.xor_xor_cancel ..)

/-! ## Commands that read their lanes and the slots (classes BK, BN and C) -/

@[simp] theorem slotsFilled_latch {n : LaneCount} {sl : Lane} {key : KeySel} {s : State} :
    SlotsFilled n sl key (latch s) ↔ SlotsFilled n sl key s := by
  simp [SlotsFilled]

@[simp] theorem keysInRange_latch {n : LaneCount} {sl : Lane} {key : KeySel} {ri cnt : Nat} {s : State} :
    KeysInRange n sl key ri cnt (latch s) ↔ KeysInRange n sl key ri cnt s := by
  simp [KeysInRange]

@[simp] theorem variantFits_latch {n : LaneCount} {sl : Lane} {key : KeySel} {v : Variant} {s : State} :
    VariantFits n sl key v (latch s) ↔ VariantFits n sl key v s := by
  simp [VariantFits]

@[simp] theorem lanesWritten_latch {n : LaneCount} {sl : Lane} {s : State} :
    LanesWritten n sl (latch s) ↔ LanesWritten n sl s := by
  simp [LanesWritten]

/-- The operands that are tested are the command's lanes alone, and each lane goes through a function of the slots. -/
structure SlotCommand (i : Instr) (n : LaneCount) (sl : Lane) (f : Quad Slot → Lane → Block → Block) : Prop where
  laneCount : i.laneCount? = some n
  start : i.start? = some sl
  ready : ∀ t, readyOf i t = lanesReady n sl t
  result : ∀ t l, resultOf i t l = f t.ks l (t.st.get l)

section SlotCommand

variable {i : Instr} {n : LaneCount} {sl : Lane} {key : KeySel} {f : Quad Slot → Lane → Block → Block} {s : State}

theorem SlotCommand.completes (h : SlotCommand i n sl f) (hc : checkOf i (latch s) = none)
    (hl : LanesWritten n sl s) :
    ∃ t, exec i s = .next t ∧ LanesCompleted i n sl (fun l => f s.ks l (s.st.get l)) s t := by
  have hready : readyOf i (latch s) = true := by
    rw [h.ready, lanesReady_iff, lanesWritten_latch]
    exact hl
  have hresult : resultOf i (latch s) = fun l => f s.ks l (s.st.get l) := by
    funext l
    rw [h.result, latch_ks, latch_st]
  exact hresult ▸ exec_lanesCompleted h.laneCount h.start hc hready

theorem SlotCommand.of_completed (h : SlotCommand i n sl f) {t : State} (he : exec i s = .next t)
    (hz : causeField t.status = 0) : checkOf i (latch s) = none ∧ LanesWritten n sl s := by
  obtain ⟨hc, hr, -⟩ := exec_next_zero he hz
  exact ⟨hc, lanesWritten_latch.1 (readyOf_lanes h.laneCount h.start hr)⟩

theorem checkEmpty_eq_some {t : State} (h : ¬ SlotsFilled n sl key t) :
    checkEmpty n sl key t = some .scheduleEmpty := by
  obtain ⟨c, hc⟩ := Option.ne_none_iff_exists'.1 (mt checkEmpty_eq_none.1 h)
  rw [hc, (checkEmpty_cause hc).1]

theorem checkIndex_eq_some {ri cnt : Nat} {t : State} (h : ¬ KeysInRange n sl key ri cnt t) :
    checkIndex n sl key ri cnt t = some .roundIndexOutOfRange := by
  obtain ⟨c, hc⟩ := Option.ne_none_iff_exists'.1 (mt checkIndex_eq_none.1 h)
  rw [hc, (checkIndex_cause hc).1]

theorem checkVariant_eq_some {v : Variant} {t : State} (h : ¬ VariantFits n sl key v t) :
    checkVariant n sl key v t = some .roundCountMismatch := by
  obtain ⟨c, hc⟩ := Option.ne_none_iff_exists'.1 (mt checkVariant_eq_none.1 h)
  rw [hc, (checkVariant_cause hc).1]

/-- How a command with a slot check and one more check `own` of its class stops, in the order of R426. -/
theorem SlotCommand.stops (h : SlotCommand i n sl f) {own : Option Cause} {fits : Prop} {c : Cause}
    (ha : sl.val % n.count = 0)
    (hchecks : checkOf i (latch s) = (checkLanes n sl <|> checkEmpty n sl key (latch s) <|> own))
    (hnone : fits → own = none) (hsome : ¬ fits → own = some c) :
    (¬ SlotsFilled n sl key s → ∃ t, exec i s = .next t ∧ Raised .scheduleEmpty (encode i) s t) ∧
    (SlotsFilled n sl key s → ¬ fits → ∃ t, exec i s = .next t ∧ Raised c (encode i) s t) ∧
    (SlotsFilled n sl key s → fits → ¬ LanesWritten n sl s → exec i s = .fault .unwritten) := by
  rw [checkLanes_eq_none.2 ha] at hchecks
  have hfilled (hs : SlotsFilled n sl key s) : checkOf i (latch s) = own := by
    rw [hchecks, checkEmpty_eq_none.2 (slotsFilled_latch.2 hs)]
    rfl
  refine ⟨fun hs => ?_, fun hs hfits => ?_, fun hs hfits hl => ?_⟩
  · rw [checkEmpty_eq_some (mt slotsFilled_latch.1 hs)] at hchecks
    exact ⟨_, exec_raises hchecks, raised_raise ..⟩
  · exact ⟨_, exec_raises ((hfilled hs).trans (hsome hfits)), raised_raise ..⟩
  · refine exec_unwritten ((hfilled hs).trans (hnone hfits)) ?_
    rw [h.ready, ← Bool.not_eq_true, lanesReady_iff, lanesWritten_latch]
    exact hl

end SlotCommand

/-! ## The twelve batched commands as one (R311, R318 to R329) -/

section RoundsInstr

variable (ord : Ord) (inv fin : Bool) (n : LaneCount) (sl : Lane) (key : KeySel) (ri cnt : Nat)

/-- The no-key commands are here too, since their rounds ignore the keys (R231). -/
theorem slotCommand_roundsInstr : SlotCommand (roundsInstr ord inv fin n sl key ri cnt) n sl
    (fun ks l x => batch ord inv fin cnt x fun j => (ks.get (key.index l)).key (ri + j)) where
  laneCount := by cases ord <;> cases inv <;> cases fin <;> rfl
  start := by cases ord <;> cases inv <;> cases fin <;> rfl
  ready t := by cases ord <;> cases inv <;> cases fin <;> rfl
  result t l := by
    cases ord with
    | std | kf => cases inv <;> cases fin <;> rfl
    | nk => cases inv <;> cases fin <;> exact batch_nk_congr ..

variable {ord}

theorem checkOf_roundsInstr_keyed (hord : ord ≠ .nk) (t : State) :
    checkOf (roundsInstr ord inv fin n sl key ri cnt) t =
      (checkLanes n sl <|> checkEmpty n sl key t <|> checkIndex n sl key ri cnt t) := by
  cases ord with
  | std | kf => cases inv <;> cases fin <;> rfl
  | nk => exact absurd rfl hord

theorem checkOf_roundsInstr_nk (t : State) :
    checkOf (roundsInstr .nk inv fin n sl key ri cnt) t = checkLanes n sl := by
  cases inv <;> cases fin <;> rfl

variable {inv fin n sl key ri cnt}

theorem checkOf_roundsInstr_eq_none {t : State} :
    checkOf (roundsInstr ord inv fin n sl key ri cnt) t = none ↔
      sl.val % n.count = 0 ∧ (ord ≠ .nk → SlotsFilled n sl key t ∧ KeysInRange n sl key ri cnt t) := by
  by_cases hord : ord = .nk
  · subst hord
    simp [checkOf_roundsInstr_nk, checkLanes_eq_none]
  · simp [checkOf_roundsInstr_keyed, hord, checkLanes_eq_none, checkEmpty_eq_none, checkIndex_eq_none]

/-- Every batched command completes where its lanes are written and, unless it is a no-key one, its slots are filled
and hold its keys. `round l` is lane l's round function. -/
theorem exec_roundsInstr (ord : Ord) (inv fin : Bool) {s : State} {round : Lane → Nat → Block → Block}
    (ha : sl.val % n.count = 0) (hl : LanesWritten n sl s)
    (hk : ord ≠ .nk → SlotsFilled n sl key s ∧ KeysInRange n sl key ri cnt s)
    (hround : ∀ l j x, rnd ord inv (fin && j + 1 == cnt) x ((s.ks.get (key.index l)).key (ri + j)) = round l j x) :
    ∃ t, exec (roundsInstr ord inv fin n sl key ri cnt) s = .next t ∧
      LanesCompleted (roundsInstr ord inv fin n sl key ri cnt) n sl
        (fun l => roundsSeq (round l) (s.st.get l) cnt) s t := by
  have hc : checkOf (roundsInstr ord inv fin n sl key ri cnt) (latch s) = none :=
    checkOf_roundsInstr_eq_none.2 ⟨ha, by simpa using hk⟩
  simpa only [batch_eq_roundsSeq, hround] using (slotCommand_roundsInstr ord inv fin n sl key ri cnt).completes hc hl

end RoundsInstr

/-- Settles O26. -/
theorem standardBatched : Obligations.StandardBatched := fun _ _ _ _ _ _ ha hf hr hl =>
  have hbatch (inv fin : Bool) {round : Lane → Nat → Block → Block} :=
    exec_roundsInstr .std inv fin (round := round) ha hl fun _ => ⟨hf, hr⟩
  ⟨hbatch false false fun _ _ _ => rfl, hbatch false true fun _ _ _ => rnd_std_last_final ..,
    hbatch true false fun _ _ _ => rfl, hbatch true true fun _ _ _ => rnd_std_last_final ..⟩

/-- Settles O27. -/
theorem keyFirstBatched : Obligations.KeyFirstBatched := fun _ _ _ _ _ _ ha hf hr hl =>
  have hbatch (inv fin : Bool) {round : Lane → Nat → Block → Block} :=
    exec_roundsInstr .kf inv fin (round := round) ha hl fun _ => ⟨hf, hr⟩
  ⟨hbatch false false fun _ _ _ => rfl, hbatch false true fun _ _ _ => rnd_last_final ..,
    hbatch true false fun _ _ _ => rfl, hbatch true true fun _ _ _ => rnd_last_final ..⟩

/-- Settles O28: the key selection and the index are not in the command. -/
theorem noKeyBatched : Obligations.NoKeyBatched := fun _ _ _ _ ha hl =>
  have hbatch (inv fin : Bool) {round : Lane → Nat → Block → Block} :=
    exec_roundsInstr .nk inv fin (key := .perLane) (ri := 0) (round := round) ha hl (absurd rfl)
  ⟨hbatch false false fun _ _ _ => rfl, hbatch false true fun _ _ _ => rnd_last_final ..,
    hbatch true false fun _ _ _ => rfl, hbatch true true fun _ _ _ => rnd_last_final ..⟩

/-- Settles O29. -/
theorem batchedChecks : Obligations.BatchedChecks := fun ord inv fin n sl key ri cnt s hord ha =>
  (slotCommand_roundsInstr ord inv fin n sl key ri cnt).stops ha
    (checkOf_roundsInstr_keyed inv fin n sl key ri cnt hord (latch s))
    (fun h => checkIndex_eq_none.2 (keysInRange_latch.2 h)) fun h => checkIndex_eq_some (mt keysInRange_latch.1 h)

/-! ## The two cipher commands as one (R330, R331) -/

/-- ENCRYPT (`inv` false) and DECRYPT (`inv` true). -/
def cipherInstr (inv : Bool) (n : LaneCount) (sl : Lane) (key : KeySel) (v : Variant) : Instr :=
  if inv then .decrypt n sl key v else .encrypt n sl key v

section CipherInstr

variable (inv : Bool) {n : LaneCount} {sl : Lane} {key : KeySel} {v : Variant}

theorem slotCommand_cipherInstr : SlotCommand (cipherInstr inv n sl key v) n sl
    (fun ks l => cipherBlock inv (ks.get (key.index l)).rounds (ks.get (key.index l)).key) where
  laneCount := by cases inv <;> rfl
  start := by cases inv <;> rfl
  ready t := by cases inv <;> rfl
  result t l := by
    cases inv with
    | false => exact encryptBlock_eq ..
    | true => exact decryptBlock_eq ..

theorem checkOf_cipherInstr (t : State) : checkOf (cipherInstr inv n sl key v) t =
    (checkLanes n sl <|> checkEmpty n sl key t <|> checkVariant n sl key v t) := by
  cases inv <;> rfl

theorem checkOf_cipherInstr_eq_none {t : State} : checkOf (cipherInstr inv n sl key v) t = none ↔
    sl.val % n.count = 0 ∧ SlotsFilled n sl key t ∧ VariantFits n sl key v t := by
  rw [checkOf_cipherInstr, orElse_eq_none, orElse_eq_none, checkLanes_eq_none, checkEmpty_eq_none,
    checkVariant_eq_none]

theorem exec_cipherInstr {s : State} (ha : sl.val % n.count = 0) (hf : SlotsFilled n sl key s)
    (hv : VariantFits n sl key v s) (hl : LanesWritten n sl s) :
    ∃ t, exec (cipherInstr inv n sl key v) s = .next t ∧
      LanesCompleted (cipherInstr inv n sl key v) n sl
        (fun l => cipherBlock inv (s.ks.get (key.index l)).rounds (s.ks.get (key.index l)).key (s.st.get l)) s t :=
  (slotCommand_cipherInstr inv).completes
    ((checkOf_cipherInstr_eq_none inv).2 ⟨ha, slotsFilled_latch.2 hf, variantFits_latch.2 hv⟩) hl

end CipherInstr

/-- Settles O31. -/
theorem encryptCommand : Obligations.EncryptCommand := fun _ _ _ _ _ => exec_cipherInstr false

/-- Settles O32. -/
theorem decryptCommand : Obligations.DecryptCommand := fun _ _ _ _ _ => exec_cipherInstr true

/-- Settles O33. -/
theorem cipherChecks : Obligations.CipherChecks := by
  intro n sl key v s ha i hi
  obtain ⟨inv, rfl⟩ : ∃ inv, i = cipherInstr inv n sl key v := by
    obtain rfl | rfl : i = .encrypt n sl key v ∨ i = .decrypt n sl key v := by simpa using hi
    · exact ⟨false, rfl⟩
    · exact ⟨true, rfl⟩
  exact (slotCommand_cipherInstr inv).stops ha (checkOf_cipherInstr inv (latch s))
    (fun h => checkVariant_eq_none.2 (variantFits_latch.2 h)) fun h => checkVariant_eq_some (mt variantFits_latch.1 h)

/-! ## Commands that take each lane through a function -/

/-- Each lane of the command has gone through `f`; the other lanes, the lanes' tags and the slots are as they were. -/
structure LanesMapped (n : LaneCount) (sl : Lane) (f : Lane → Block → Block) (s t : State) : Prop where
  st : ∀ l : Lane, t.st.get l = if inLanes n sl l then f l (s.st.get l) else s.st.get l
  wst : t.wst = s.wst
  ks : t.ks = s.ks

/-- The commands of `is`, from every state with the slots and the lanes' tags of `s`, all complete and take each lane
through `f`. -/
def MapsLanes (s : State) (n : LaneCount) (sl : Lane) (is : List Instr) (f : Lane → Block → Block) : Prop :=
  ∀ w : State, w.ks = s.ks → w.wst = s.wst → ∃ t, AllComplete is w t ∧ LanesMapped n sl f w t

section MapsLanes

variable {s t u : State} {n : LaneCount} {sl : Lane} {i : Instr} {is js : List Instr} {f g : Lane → Block → Block}

theorem LanesMapped.refl (s : State) (n : LaneCount) (sl : Lane) : LanesMapped n sl (fun _ x => x) s s where
  st l := by simp
  wst := rfl
  ks := rfl

theorem LanesMapped.trans (h : LanesMapped n sl f s t) (h' : LanesMapped n sl g t u) :
    LanesMapped n sl (fun l x => g l (f l x)) s u where
  st l := by
    rw [h'.st, h.st]
    split <;> rfl
  wst := h'.wst.trans h.wst
  ks := h'.ks.trans h.ks

/-- A state that the same function leads to has the same lanes. -/
theorem LanesMapped.st_eq (h : LanesMapped n sl f s t) (h' : LanesMapped n sl f s u) : t.st = u.st :=
  Quad.ext_get fun l => (h.st l).trans (h'.st l).symm

theorem LanesCompleted.congr {f g : Lane → Block} (h : LanesCompleted i n sl f s t)
    (hfg : ∀ l, inLanes n sl l = true → f l = g l) : LanesCompleted i n sl g s t :=
  { h with lane := fun l hl => hfg l hl ▸ h.lane l hl }

theorem LanesCompleted.lanesMapped (h : LanesCompleted i n sl (fun l => f l (s.st.get l)) s t)
    (hl : LanesWritten n sl s) : LanesMapped n sl f s t where
  st l := by
    split
    · next hin => exact (h.lane l hin).1
    · next hout => exact (h.other l (Bool.eq_false_of_not_eq_true hout)).1
  wst := by
    ext l
    by_cases hin : inLanes n sl l = true
    · rw [(h.lane l hin).2, hl l hin]
    · exact (h.other l (Bool.eq_false_of_not_eq_true hin)).2
  ks := h.ks

theorem MapsLanes.congr (h : MapsLanes s n sl is f) (hfg : ∀ l x, f l x = g l x) : MapsLanes s n sl is g :=
  (funext₂ hfg : f = g) ▸ h

/-- Commands that take each lane to where it was leave ST as it was. -/
theorem MapsLanes.identity (h : MapsLanes s n sl is f) (hf : ∀ l x, f l x = x) :
    ∃ t, AllComplete is s t ∧ t.st = s.st := by
  obtain ⟨t, hall, hmapped⟩ := h.congr hf s rfl rfl
  exact ⟨t, hall, hmapped.st_eq (.refl s n sl)⟩

theorem MapsLanes.nil : MapsLanes s n sl [] fun _ x => x := fun w _ _ => ⟨w, rfl, .refl w n sl⟩

theorem MapsLanes.append (h : MapsLanes s n sl is f) (h' : MapsLanes s n sl js g) :
    MapsLanes s n sl (is ++ js) fun l x => g l (f l x) := by
  intro w hks hwst
  obtain ⟨t, hall, hmapped⟩ := h w hks hwst
  obtain ⟨u, hall', hmapped'⟩ := h' t (hmapped.ks.trans hks) (hmapped.wst.trans hwst)
  exact ⟨u, hall.append hall', hmapped.trans hmapped'⟩

/-- A chain of parts takes each lane through the chain of their functions. -/
theorem MapsLanes.flatMap_range {is : Nat → List Instr} {f : Nat → Lane → Block → Block} {m : Nat}
    (h : ∀ j < m, MapsLanes s n sl (is j) (f j)) :
    MapsLanes s n sl ((List.range m).flatMap is) fun l x => roundsSeq (fun j => f j l) x m := by
  induction m with
  | zero => exact .nil
  | succ m ih =>
    rw [List.range_succ, List.flatMap_append, List.flatMap_singleton]
    exact (ih fun j hj => h j (by omega)).append (h m (by omega))

/-- The same function leads to the same lanes and tags. -/
theorem MapsLanes.same_lanes (h : MapsLanes s n sl [i] f) (h' : MapsLanes s n sl is f) (he : exec i s = .next t) :
    ∃ u, AllComplete is s u ∧ u.st = t.st ∧ u.wst = t.wst := by
  obtain ⟨t', ⟨w, hw, -, rfl⟩, hmapped⟩ := h s rfl rfl
  obtain ⟨u, hall, hmapped'⟩ := h' s rfl rfl
  cases hw.symm.trans he
  exact ⟨u, hall, hmapped'.st_eq hmapped, hmapped'.wst.trans hmapped.wst.symm⟩

theorem SlotCommand.mapsLanes {f : Quad Slot → Lane → Block → Block} (h : SlotCommand i n sl f)
    (hc : checkOf i (latch s) = none) (hl : LanesWritten n sl s) : MapsLanes s n sl [i] (f s.ks) := by
  intro w hks hwst
  have hlw : LanesWritten n sl w := by rwa [LanesWritten, hwst]
  have hcw : checkOf i (latch w) = none := (checkOf_congr i fun k => by rw [latch_ks, latch_ks, hks]).trans hc
  obtain ⟨t, he, hdone⟩ := h.completes hcw hlw
  rw [hks] at hdone
  exact ⟨t, ⟨t, he, hdone.completed.causeField_eq, rfl⟩, hdone.lanesMapped hlw⟩

end MapsLanes

/-! ## Round keys read into key registers (R283) -/

/-- RKREAD of round key `ri` of each lane's slot into the lane's key register, for the lanes of `order`. -/
def keyReads (key : KeySel) (ri : Nat) (order : List Lane) : List Instr :=
  order.map fun l => .rkread .kr l (key.index l) ri

/-- What these reads leave: the key registers of the lanes of `order` hold the round keys and are written; the other
key registers, ST, its tags and the slots are as they were. -/
structure KeysRead (key : KeySel) (ri : Nat) (order : List Lane) (s t : State) : Prop where
  kr : ∀ l : Lane, t.kr.get l = if l ∈ order then (s.ks.get (key.index l)).key ri else s.kr.get l
  wkr : ∀ l : Lane, t.wkr.get l = if l ∈ order then true else s.wkr.get l
  st : t.st = s.st
  wst : t.wst = s.wst
  ks : t.ks = s.ks

theorem KeysRead.cons {key : KeySel} {ri : Nat} {l : Lane} {order : List Lane} {s t u : State}
    (h : KeysRead key ri [l] s t) (h' : KeysRead key ri order t u) : KeysRead key ri (l :: order) s u where
  kr m := by
    rw [h'.kr, h.kr, h.ks]
    by_cases hm : m = l <;> simp [hm]
  wkr m := by
    rw [h'.wkr, h.wkr]
    by_cases hm : m = l <;> simp [hm]
  st := h'.st.trans h.st
  wst := h'.wst.trans h.wst
  ks := h'.ks.trans h.ks

theorem exec_rkread_kr {key : KeySel} {ri : Nat} {l : Lane} {s : State}
    (hfilled : (s.ks.get (key.index l)).rounds ≠ 0) (hri : ri ≤ (s.ks.get (key.index l)).rounds) :
    ∃ t, exec (.rkread .kr l (key.index l) ri) s = .next t ∧ causeField t.status = 0 ∧ KeysRead key ri [l] s t := by
  obtain ⟨-, -, hread⟩ := rkreadCommand .kr l (key.index l) ri s
  obtain ⟨t, he, hcompleted, hlanes, -, -, hks, -⟩ := hread hfilled hri
  simp only [true_and, reduceCtorEq, false_and, if_false, forall_and] at hlanes
  obtain ⟨hkr, hwkr, hst, hwst⟩ := hlanes
  refine ⟨t, he, hcompleted.causeField_eq, fun m => ?_, fun m => ?_, Quad.ext_get hst, Quad.ext_get hwst, hks⟩
  · rw [hkr]
    by_cases hm : m = l <;> simp [hm]
  · simp [hwkr]

theorem allComplete_keyReads {key : KeySel} {ri : Nat} {order : List Lane} {s : State}
    (hfilled : ∀ l ∈ order, (s.ks.get (key.index l)).rounds ≠ 0)
    (hri : ∀ l ∈ order, ri ≤ (s.ks.get (key.index l)).rounds) :
    ∃ t, AllComplete (keyReads key ri order) s t ∧ KeysRead key ri order s t := by
  induction order generalizing s with
  | nil => exact ⟨s, rfl, by simp, by simp, rfl, rfl, rfl⟩
  | cons l order ih =>
    obtain ⟨hl, hfilled⟩ := List.forall_mem_cons.1 hfilled
    obtain ⟨hl', hri⟩ := List.forall_mem_cons.1 hri
    obtain ⟨t, he, hz, hfirst⟩ := exec_rkread_kr hl hl'
    obtain ⟨u, hall, hrest⟩ := ih (s := t) (by rwa [hfirst.ks]) (by rwa [hfirst.ks])
    exact ⟨u, ⟨t, he, hz, hall⟩, hfirst.cons hrest⟩

/-- A command that completes once its keys have been read takes each lane through its function. -/
theorem mapsLanes_keyReads {key : KeySel} {ri : Nat} {order : List Lane} {s : State} {n : LaneCount} {sl : Lane}
    {i : Instr} {f : Lane → Block → Block} (hfilled : ∀ l ∈ order, (s.ks.get (key.index l)).rounds ≠ 0)
    (hri : ∀ l ∈ order, ri ≤ (s.ks.get (key.index l)).rounds) (hl : LanesWritten n sl s)
    (hexec : ∀ u : State, LanesWritten n sl u →
      (∀ l ∈ order, u.kr.get l = (s.ks.get (key.index l)).key ri ∧ u.wkr.get l = true) →
      ∃ t, exec i u = .next t ∧ LanesCompleted i n sl (fun l => f l (u.st.get l)) u t) :
    MapsLanes s n sl (keyReads key ri order ++ [i]) f := by
  intro w hks hwst
  obtain ⟨u, hall, hread⟩ := allComplete_keyReads (s := w) (by rwa [hks]) (by rwa [hks])
  have hlu : LanesWritten n sl u := by rwa [LanesWritten, hread.wst, hwst]
  have hkeys : ∀ l ∈ order, u.kr.get l = (s.ks.get (key.index l)).key ri ∧ u.wkr.get l = true := fun l hm => by
    rw [hread.kr, hread.wkr, if_pos hm, if_pos hm, hks]
    exact ⟨rfl, rfl⟩
  obtain ⟨t, he, hdone⟩ := hexec u hlu hkeys
  have hmapped : LanesMapped n sl f u t := hdone.lanesMapped hlu
  exact ⟨t, hall.append ⟨t, he, hdone.completed.causeField_eq, rfl⟩, by simpa only [hread.st] using hmapped.st,
    hmapped.wst.trans hread.wst, hmapped.ks.trans hread.ks⟩

/-! ## A batched command and its single rounds (R315) -/

theorem sequentialRounds_eq (ord : Ord) (inv fin : Bool) (n : LaneCount) (sl : Lane) (key : KeySel) (ri cnt : Nat) :
    sequentialRounds ord inv fin n sl key ri cnt = (List.range cnt).flatMap fun j =>
      keyReads key (ri + j) (if ord = .nk then [] else lanes n sl) ++
        [roundInstr ord inv (fin && j + 1 == cnt) n sl .perLane] := by
  cases ord <;> rfl

/-- One round with its keys read before it, which a no-key round does not need. -/
theorem mapsLanes_sequentialRound (ord : Ord) (inv fin : Bool) {n : LaneCount} {sl : Lane} {key : KeySel} {ri : Nat}
    {s : State} (ha : sl.val % n.count = 0) (hl : LanesWritten n sl s)
    (hk : ord ≠ .nk → ∀ l, inLanes n sl l = true →
      (s.ks.get (key.index l)).rounds ≠ 0 ∧ ri ≤ (s.ks.get (key.index l)).rounds) :
    MapsLanes s n sl
      (keyReads key ri (if ord = .nk then [] else lanes n sl) ++ [roundInstr ord inv fin n sl .perLane])
      fun l x => rnd ord inv fin x ((s.ks.get (key.index l)).key ri) := by
  by_cases hord : ord = .nk
  · subst hord
    refine mapsLanes_keyReads (by simp) (by simp) hl fun u hlu _ => ?_
    obtain ⟨t, he, hdone⟩ := exec_roundInstr .nk inv fin (key := .perLane) ha hlu (absurd rfl)
    exact ⟨t, he, hdone.congr fun l _ => rnd_nk_congr ..⟩
  · simp only [if_neg hord]
    refine mapsLanes_keyReads (fun l hm => (hk hord l (mem_lanes.1 hm)).1) (fun l hm => (hk hord l (mem_lanes.1 hm)).2)
      hl fun u hlu hkeys => ?_
    obtain ⟨t, he, hdone⟩ := exec_roundInstr ord inv fin (key := .perLane) ha hlu fun _ l hin =>
      (hkeys l (mem_lanes.2 hin)).2
    exact ⟨t, he, hdone.congr fun l hin => congrArg (rnd ord inv fin _) (hkeys l (mem_lanes.2 hin)).1⟩

/-- Settles O30: both take each lane through the chain of its rounds. -/
theorem batchedEqualsSequential : Obligations.BatchedEqualsSequential := by
  intro ord inv fin n sl key ri cnt s t he hz
  have hcommand := slotCommand_roundsInstr ord inv fin n sl key ri cnt
  obtain ⟨hc, hl⟩ := hcommand.of_completed he hz
  obtain ⟨ha, hk⟩ := checkOf_roundsInstr_eq_none.1 hc
  refine (hcommand.mapsLanes hc hl).same_lanes ?_ he
  simp only [sequentialRounds_eq, batch_eq_roundsSeq]
  refine .flatMap_range fun j hj => mapsLanes_sequentialRound ord inv _ ha hl fun hord l hin => ?_
  obtain ⟨hfilled, hrange⟩ := hk hord
  have hlast := keysInRange_latch.1 hrange l hin
  exact ⟨slotsFilled_latch.1 hfilled l hin, by omega⟩

/-! ## A cipher command and its composition (R332, R333) -/

/-- R333: the first round key read into key register r and added, then the other rounds as one batched command. -/
def cipherComposition (inv : Bool) (n : LaneCount) (sl a r : Lane) (nr : Nat) : List Instr :=
  [.rkread .kr r a 0, .addroundkey n sl (.broadcast r), roundsInstr .std inv true n sl (.broadcast a) 1 nr]

section Composition

variable (inv : Bool) {n : LaneCount} {sl a : Lane} {nr : Nat} {s : State} (ha : sl.val % n.count = 0)
  (hl : LanesWritten n sl s) (hrounds : (s.ks.get a).rounds = nr) (hnr : nr ≠ 0)
include ha hl hrounds hnr

theorem mapsLanes_cipherInstr {v : Variant} (hv : v.expected = none ∨ v.expected = some nr) :
    MapsLanes s n sl [cipherInstr inv n sl (.broadcast a) v] fun _ => cipherBlock inv nr (s.ks.get a).key := by
  subst hrounds
  have hfits : VariantFits n sl (.broadcast a) v s := fun l _ nr hexpected => by
    obtain hv | hv := hv <;> rw [hv] at hexpected <;> cases hexpected
    rfl
  have hc : checkOf (cipherInstr inv n sl (.broadcast a) v) (latch s) = none :=
    (checkOf_cipherInstr_eq_none inv).2 ⟨ha, slotsFilled_latch.2 fun _ _ => hnr, variantFits_latch.2 hfits⟩
  exact (slotCommand_cipherInstr inv).mapsLanes hc hl

theorem mapsLanes_cipherComposition (r : Lane) :
    MapsLanes s n sl (cipherComposition inv n sl a r nr) fun _ => cipherBlock inv nr (s.ks.get a).key := by
  subst hrounds
  have hadd : MapsLanes s n sl (keyReads (.broadcast a) 0 [r] ++ [.addroundkey n sl (.broadcast r)])
      fun _ x => x.xor ((s.ks.get a).key 0) := by
    refine mapsLanes_keyReads (fun _ _ => hnr) (fun _ _ => Nat.zero_le _) hl fun u hlu hkeys => ?_
    obtain ⟨hkr, hwkr⟩ := hkeys r (by simp)
    obtain ⟨t, he, hdone⟩ := exec_addroundkey (key := .broadcast r) ha hlu fun _ _ => hwkr
    refine ⟨t, he, hdone.congr fun l _ => ?_⟩
    rw [← ark_eq_ofFn]
    exact congrArg (ark _) hkr
  have hc : checkOf (roundsInstr .std inv true n sl (.broadcast a) 1 (s.ks.get a).rounds) (latch s) = none :=
    checkOf_roundsInstr_eq_none.2 ⟨ha, fun _ => ⟨slotsFilled_latch.2 fun _ _ => hnr,
      keysInRange_latch.2 fun _ _ => (Nat.add_sub_cancel_left ..).le⟩⟩
  have hbatch := (slotCommand_roundsInstr .std inv true n sl (.broadcast a) 1 _).mapsLanes hc hl
  exact (hadd.append hbatch).congr fun _ => batch_eq_cipherBlock inv hnr (s.ks.get a).key

end Composition

/-- A cipher command that completes and its composition take each lane through the cipher. -/
theorem cipherInstr_eq_composition (inv : Bool) {n : LaneCount} {sl a : Lane} (r : Lane) {v : Variant} {s t : State}
    (he : exec (cipherInstr inv n sl (.broadcast a) v) s = .next t) (hz : causeField t.status = 0) :
    ∃ u, AllComplete (cipherComposition inv n sl a r (s.ks.get a).rounds) s u ∧ u.st = t.st := by
  have hcommand := slotCommand_cipherInstr inv (n := n) (sl := sl) (key := .broadcast a) (v := v)
  obtain ⟨hc, hl⟩ := hcommand.of_completed he hz
  obtain ⟨ha, hfilled, -⟩ := (checkOf_cipherInstr_eq_none inv).1 hc
  have hslot : (s.ks.get a).rounds ≠ 0 := slotsFilled_latch.1 hfilled sl (inLanes_start n sl)
  obtain ⟨u, hall, hst, -⟩ :=
    (hcommand.mapsLanes hc hl).same_lanes (mapsLanes_cipherComposition inv ha hl rfl hslot r) he
  exact ⟨u, hall, hst⟩

/-- Settles O35. -/
theorem cipherAsComposition : Obligations.CipherAsComposition := fun _ _ _ r _ _ _ =>
  ⟨cipherInstr_eq_composition false r, cipherInstr_eq_composition true r⟩

/-- Settles O34: both forms take each lane through the cipher and then through its inverse. -/
theorem roundTrip : Obligations.RoundTrip := by
  intro n sl a b r v key nr s hkey hv hslot hinv ha hl
  have hnr : nr ≠ 0 := by
    rintro rfl
    simp at hkey
  have hra : (s.ks.get a).rounds = nr := by rw [hslot]; rfl
  have hrb : (s.ks.get b).rounds = nr := by rw [hinv, rounds_invSchedule, hra]
  have hback (x : Block) : cipherBlock true nr (s.ks.get b).key (cipherBlock false nr (s.ks.get a).key x) = x := by
    rw [hinv, ← hra]
    exact cipherBlock_inverse (by rwa [hra]) x
  have hcipher (inv : Bool) {k : Lane} (hk : (s.ks.get k).rounds = nr) :=
    mapsLanes_cipherInstr inv ha hl hk hnr hv
  have hcomposition (inv : Bool) {k : Lane} (hk : (s.ks.get k).rounds = nr) :=
    mapsLanes_cipherComposition inv ha hl hk hnr r
  exact ⟨((hcipher false hra).append (hcipher true hrb)).identity fun _ => hback,
    ((hcomposition false hra).append (hcomposition true hrb)).identity fun _ => hback⟩

end Sys2Proof.Machine
end

section
/-!
The capabilities and the dispatch of a command: the path that STATUS.PATH records, what does not depend on it, the
system commands, and the operations that change CAPS.
-/

namespace Sys2Proof.Machine

/-! ## The path (R354) -/

/-- R151: the commands with lanes are those of the datapath classes. -/
theorem isSome_laneCount (i : Instr) : i.laneCount?.isSome = i.mnemonic.cls.datapath := by
  cases i <;> rfl

theorem nWay_iff {caps : Word} {n : LaneCount} : nWay caps n = true ↔
    caps.getLsbD 2 = true ∧ (n = .two ∧ caps.getLsbD 3 = true ∨ n = .four ∧ caps.getLsbD 4 = true) := by
  cases n <;> simp [nWay, capsHwn, capsVw2, capsVw4]

/-- The path of an eligible command of `n` lanes, from CAPS. -/
def eligiblePath (caps : Word) (n : LaneCount) : Path :=
  if nWay caps n then .hwn else if capsHw1 caps then .hw1 else .sw

theorem eligiblePath_nWay {caps : Word} {n : LaneCount} (h : nWay caps n = true) : eligiblePath caps n = .hwn :=
  if_pos h

theorem eligiblePath_hw1 {caps : Word} {n : LaneCount} (h : ¬ nWay caps n = true) (hhw : caps.getLsbD 1 = true) :
    eligiblePath caps n = .hw1 :=
  (if_neg h).trans (if_pos hhw)

theorem eligiblePath_sw {caps : Word} {n : LaneCount} (h : ¬ nWay caps n = true) (hhw : caps.getLsbD 1 = false) :
    eligiblePath caps n = .sw :=
  (if_neg h).trans (if_neg (Bool.eq_false_iff.1 hhw))

theorem pathOf_eligible {i : Instr} {n : LaneCount} {s : State} (hn : i.laneCount? = some n)
    (he : i.mnemonic ∈ s.config.hwEligible) : pathOf i s = eligiblePath s.caps n := by
  simp [pathOf, hn, he, eligiblePath]

theorem pathOf_not_eligible {i : Instr} {s : State}
    (h : ¬ (i.mnemonic.cls.datapath = true ∧ i.mnemonic ∈ s.config.hwEligible)) : pathOf i s = .sw := by
  cases hn : i.laneCount? with
  | none => simp [pathOf, hn]
  | some n =>
    have hi : i.mnemonic ∉ s.config.hwEligible := fun he => h ⟨by simp [← isSome_laneCount, hn], he⟩
    simp [pathOf, hn, hi]

/-- A completed command records its path, by CAPS as it leaves it. -/
theorem Completed.pathField_eq {i : Instr} {s t : State} (h : Completed i s t) :
    pathField t.status = (pathOf i t).code := by
  rw [h.status, pathField_statusWord]
  exact congrArg Path.code (pathOf_congr i h.caps.symm h.config.symm)

theorem Raised.pathField_eq {c : Cause} {cw : Word} {s t : State} (h : Raised c cw s t) : pathField t.status = 0 := by
  rw [h.status, pathField_statusWord]

theorem Raised.causeField_eq {c : Cause} {cw : Word} {s t : State} (h : Raised c cw s t) :
    causeField t.status = c.code := by
  rw [h.status, causeField_statusWord]

/-- The next state of a command is that of a completed one or that of a raised cause. -/
theorem exec_next_cases {i : Instr} {s t : State} (h : exec i s = .next t) :
    Completed i s t ∨ ∃ c, Raised c (encode i) s t := by
  obtain ⟨u, he, hdone, -⟩ | ⟨u, c, -, he, hraised⟩ | ⟨-, -, he⟩ := execOutcomes i s <;> rw [he] at h <;> cases h
  · exact .inl hdone
  · exact .inr ⟨c, hraised⟩

/-- Settles O37: an eligible command has lanes, and their count and CAPS decide its path. -/
theorem pathOfCompleted : Obligations.PathOfCompleted := by
  intro i s t he
  obtain hdone | ⟨c, hraised⟩ := exec_next_cases he
  · refine ⟨fun _ => ?_, fun hz => absurd hdone.causeField_eq hz⟩
    simp only [hdone.pathField_eq, ← hdone.config]
    by_cases heligible : i.mnemonic.cls.datapath = true ∧ i.mnemonic ∈ t.config.hwEligible
    · obtain ⟨n, hn⟩ := Option.isSome_iff_exists.1 ((isSome_laneCount i).trans heligible.1)
      simp only [hn, Option.some.injEq, ← nWay_iff, pathOf_eligible hn heligible.2]
      exact ⟨fun _ h => congrArg Path.code (eligiblePath_nWay h),
        fun _ h hhw => congrArg Path.code (eligiblePath_hw1 h hhw),
        fun _ h hhw => congrArg Path.code (eligiblePath_sw h hhw), fun h => absurd heligible h⟩
    · simp [heligible, pathOf_not_eligible heligible, Path.code]
  · exact ⟨fun hz => absurd (hraised.causeField_eq.symm.trans hz) (code_ne_zero c), fun _ => hraised.pathField_eq⟩

/-! ## The system commands (R360 to R362) -/

/-- A system command completes from every state, on no hardware path. -/
theorem exec_system {i : Instr} (hcls : i.mnemonic.cls = .sys) (s : State) :
    exec i s = .next { effectOf i (latch s) with status := 0 } := by
  have hpath : pathOf i (latch s) = .sw := pathOf_not_eligible (by simp [hcls, Class.datapath])
  cases i with
  | capinit | qhwavail | qlanes => rw [exec_completes rfl rfl, hpath]; rfl
  | _ => cases hcls

/-- Settles O36. -/
theorem systemCommands : Obligations.SystemCommands := by
  intro s
  refine ⟨?_, ?_, ?_⟩ <;> rw [exec_system rfl, latch_eq] <;> rfl

/-- Settles O38: CAPS after the latch is the probe's, and with HW_ELIGIBLE it gives the queries and the paths. -/
theorem dispatchTable : Obligations.DispatchTable := by
  intro p hp s hinit hconfig
  have hcaps : latchedCaps s = capsWord p.1 := (if_neg (by simp only [hinit]; decide)).trans (by rw [hconfig])
  have hin : Mnemonic.round ∈ (latch s).config.hwEligible := by
    rw [latch_config, hconfig]
    exact List.mem_cons_self
  have hout : Mnemonic.roundkf ∉ (latch s).config.hwEligible := by
    rw [latch_config, hconfig]
    exact (by decide : Mnemonic.roundkf ∉ Config.defaultEligible)
  have hround (n : LaneCount) (key : KeySel) :
      pathOf (.round n 0 key) (latch s) = eligiblePath (capsWord p.1) n := by
    rw [pathOf_eligible rfl hin, latch_caps, hcaps]
  have hroundkf (n : LaneCount) (key : KeySel) : pathOf (.roundkf n 0 key) (latch s) = .sw :=
    pathOf_not_eligible fun h => hout h.2
  obtain ⟨hword, hhw, hlanes, hpaths⟩ : capsWord p.1 = p.2.1 ∧ hwAvailable (capsWord p.1) = p.2.2.1 ∧
      preferredLanes (capsWord p.1) = p.2.2.2.1 ∧
      [eligiblePath (capsWord p.1) .one, eligiblePath (capsWord p.1) .two, eligiblePath (capsWord p.1) .four,
        .sw].map Path.code = p.2.2.2.2 := by
    clear hround hroundkf hin hout hcaps hconfig
    revert p
    decide
  obtain ⟨-, hqhwavail, hqlanes⟩ := systemCommands s
  refine ⟨⟨_, hqhwavail, hcaps.trans hword, ?_⟩, ⟨_, hqlanes, hcaps.trans hword, ?_⟩, ?_⟩
  · rw [← hhw, ← hcaps]; rfl
  · rw [← hlanes, ← hcaps]; rfl
  · simp only [← hpaths, List.map, hround, hroundkf]

/-! ## What the path leaves unchanged (R356) -/

namespace SameData

variable {s t : State} (h : SameData s t)
include h

theorem latch : SameData (latch s) (latch t) := by
  rw [latch_eq, latch_eq]
  exact { h with }

theorem writeSlot (k : Lane) (q : Slot) : SameData (s.writeSlot k q) (t.writeSlot k q) :=
  { h with ks := by simp [h.ks] }

theorem writeSt (l : Lane) (v : Block) : SameData (s.writeSt l v) (t.writeSt l v) :=
  { h with st := by simp [h.st], wst := by simp [h.wst] }

theorem writeKr (l : Lane) (v : Block) : SameData (s.writeKr l v) (t.writeKr l v) :=
  { h with kr := by simp [h.kr], wkr := by simp [h.wkr] }

theorem commitLanes (n : LaneCount) (sl : Lane) (f : Lane → Block) :
    SameData (s.commitLanes n sl f) (t.commitLanes n sl f) :=
  { h with st := by simp [h.st], wst := by simp [h.wst] }

theorem setRes (v w : Word) : SameData (s.setRes v) (t.setRes w) := { h with }

theorem complete (p q : Path) : SameData (complete p s) (complete q t) := { h with }

theorem raise (c : Cause) (cw : Word) : SameData (raise c cw s) (raise c cw t) := by
  cases c <;> exact { h with }

theorem effectOf (i : Instr) : SameData (effectOf i s) (effectOf i t) := by
  have heff := effect_effectOf i s
  generalize Machine.effectOf i s = u at heff
  cases heff with
  | lanes hn hsl =>
    have hresult : resultOf i s = resultOf i t := funext fun l =>
      resultOf_congr (by rw [h.st]) (fun _ _ _ => by rw [h.kr]) (fun _ _ => by rw [h.ks])
    rw [effectOf_lanes hn hsl, hresult]
    exact h.commitLanes _ _ _
  | keyexp k l =>
    rw [keyBytes_congr (t := t) fun j _ => by rw [h.keyin]]
    exact h.writeSlot k _
  | keyinv k ss =>
    rw [h.ks]
    exact h.writeSlot k _
  | rkreadKr dl k ri =>
    rw [h.ks]
    exact h.writeKr dl _
  | rkreadSt dl k ri =>
    rw [h.ks]
    exact h.writeSt dl _
  | capinit => exact h
  | qhwavail => exact h.setRes _ _
  | qlanes => exact h.setRes _ _

end SameData

/-- RES is a query's result, from CAPS, or stays as it was (R361, R362). -/
theorem effectOf_res_congr {i : Instr} {s t : State} (hres : s.res = t.res)
    (h : i ∉ [Instr.qhwavail, .qlanes] ∨ s.caps = t.caps) : (effectOf i s).res = (effectOf i t).res := by
  by_cases hi : i ∈ [Instr.qhwavail, .qlanes]
  · have hcaps := h.resolve_left (not_not_intro hi)
    obtain rfl | rfl : i = .qhwavail ∨ i = .qlanes := by simpa using hi
    · exact congrArg hwAvailable hcaps
    · exact congrArg preferredLanes hcaps
  · rw [(effect_effectOf i s).res_eq hi, (effect_effectOf i t).res_eq hi, hres]

/-- Settles O39: the checks, the written-operand test and the effect read the data, and the path goes to STATUS.PATH
alone. -/
theorem pathIndependence : Obligations.PathIndependence := by
  intro i s t h hres
  have hcheck : checkOf i (latch s) = checkOf i (latch t) := checkOf_congr i fun k => by rw [h.latch.ks]
  have hready : readyOf i (latch s) = readyOf i (latch t) := readyOf_congr i h.latch.wst h.latch.wkr h.latch.wki
  obtain ⟨c, hc, hs⟩ | ⟨hc, hr, hs⟩ | ⟨hc, hr, hs⟩ := exec_cases i s
  · rw [hs, exec_raises (hcheck ▸ hc)]
    exact ⟨h.latch.raise c _, by simp, fun _ => by simpa using hres⟩
  · rw [hs, exec_completes (hcheck ▸ hc) (hready ▸ hr)]
    exact ⟨(h.latch.effectOf i).complete _ _, by simp,
      fun hi => effectOf_res_congr (by simpa using hres) (by simpa using hi)⟩
  · rw [hs, exec_unwritten (hcheck ▸ hc) (hready ▸ hr)]
    exact rfl

/-! ## The triggers of the latch (R350 to R352) -/

/-- Every command latches CAPS, completed or not. -/
theorem exec_caps {i : Instr} {s t : State} (h : exec i s = .next t) : t.caps = latchedCaps s := by
  obtain hdone | ⟨c, hraised⟩ := exec_next_cases h
  · exact hdone.caps
  · rw [hraised.rest]

/-- Settles O40, by what the operation did. -/
theorem capsTriggers : Obligations.CapsTriggers := by
  intro s t op rest hp h
  rw [step_cons hp] at h
  have hperformed := performed_of_next (present_next h).2
  clear hp h
  cases hperformed with
  | command _ he => exact exec_caps (s := taken s rest) he
  | illegal => exact (raise_caps ..).trans (latch_caps _)
  | readCaps => exact latch_caps _
  | hostFatal hrefused hissue hreadCaps =>
    cases op with
    | reset => cases hrefused
    | issue cw => exact absurd rfl (hissue cw)
    | readCaps => exact absurd rfl hreadCaps
    | _ => rfl
  | _ => rfl

end Sys2Proof.Machine
end

section
/-!
HALTED (R41, R427): until a RESET the port answers only READ_STATUS and READ_FCMD, and neither writes the engine.
-/

namespace Sys2Proof.Machine

/-- In HALTED, an operation that is accepted and is not RESET leaves a reply and nothing else (R427). -/
theorem Performed.eq_setReply_of_accepted {s t : State} {op : HostOp} (h : Performed s op t)
    (ha : acceptedInHalted op = true) (hreset : op ≠ .reset) : ∃ r, t = s.setReply r := by
  have hop : op = .readStatus ∨ op = .readFcmd := by
    simpa [hreset] using acceptedInHalted_iff.1 ha
  obtain rfl | rfl := hop
  · cases h with
    | readStatus => exact ⟨_, rfl⟩
    | hostFatal hrefused => cases hrefused
  · cases h with
    | readFcmd => exact ⟨_, rfl⟩
    | hostFatal hrefused => cases hrefused

/-- In `t` the engine has every element as in `s`, and no RESET is still to come: the two states differ at most in the
operations pending and in the last reply. -/
structure EngineKept (s t : State) : Prop where
  engine : t = { s with port := t.port, reply := t.reply }
  noReset : HostOp.reset ∉ t.port

theorem EngineKept.halted_eq {s t : State} (h : EngineKept s t) : halted t = halted s := by
  rw [h.engine]
  rfl

theorem EngineKept.of_step {s t u : State} (hhalted : halted s = true) (h : EngineKept s t)
    (hstep : step t = .next u) : EngineKept s u := by
  obtain ⟨-, rfl⟩ | ⟨op, rest, hp, haccepted, hperformed⟩ := step_performed hstep
  · exact h
  · have hnone : HostOp.reset ∉ op :: rest := hp ▸ h.noReset
    have hop : op ≠ .reset := fun heq => hnone (heq ▸ List.mem_cons_self)
    have ha : acceptedInHalted op = true := haccepted (h.halted_eq.trans hhalted)
    obtain ⟨r, rfl⟩ := hperformed.eq_setReply_of_accepted ha hop
    refine ⟨?_, fun hmem => hnone (List.mem_cons_of_mem op hmem)⟩
    rw [h.engine]
    rfl

/-- Settles O55: a HALTED engine that is kept is HALTED still, so the next step keeps it too. -/
theorem haltedPersists : Obligations.HaltedPersists := by
  intro s t hhalted hnone hrun
  have hstart : EngineKept s s := ⟨rfl, hnone⟩
  exact (hrun.keeps hstart fun _ _ => EngineKept.of_step hhalted).engine

end Sys2Proof.Machine
end

section
/-!
RESET and power-on (R95, R470). `resetEngine` takes from `State.reset` every element but the free values of R471, the
configuration, the port and the count of RESETs, so what holds of the other elements at power-on holds after RESET.
-/

namespace Sys2Proof.Machine

/-- At power-on no lane of ST or KR is written and every slot is empty. -/
theorem State.reset_lane_cleared (l : Lane) :
    State.reset.wst.get l = false ∧ State.reset.wkr.get l = false ∧ (State.reset.ks.get l).rounds = 0 := by
  fin_cases l <;> exact ⟨rfl, rfl, rfl⟩

/-- At power-on no byte of KEYIN is written. -/
@[simp] theorem State.reset_wki (j : Fin 32) : State.reset.wki[j] = false := by
  simp [State.reset]

/-- Settles O53: HALTED accepts RESET too, so the step is always `resetEngine` of the state that took it. -/
theorem resetOperation : Obligations.ResetOperation := by
  refine ⟨fun s rest hp => ?_, State.reset_lane_cleared, State.reset_wki, rfl, rfl, rfl, rfl⟩
  have hstep : step s = .next (resetEngine (taken s rest)) := step_accepted hp (.inr rfl)
  exact ⟨_, hstep, rfl, rfl, State.reset_lane_cleared, State.reset_wki, rfl, rfl, rfl, rfl⟩

end Sys2Proof.Machine
end
